-- ==== Sys2Proof/Word.lean ====
section
/-! DEFINITION. The word types of the block: bytes, 16-bit words, the instruction fields and register numbers (10_state.md R20, R25; 30_encoding.md R82). -/

namespace Sys2Proof

/-- A memory byte or a general register (R20, R60). -/
abbrev Byte := BitVec 8

/-- A 16-bit value: an instruction word, `pc`, `I`, a stack slot (R25, R30, R32, R80). -/
abbrev Word := BitVec 16

/-- The 12-bit immediate address `nnn` (R82). -/
abbrev Addr12 := BitVec 12

/-- A 4-bit field that is no register number (R82). -/
abbrev Nibble := BitVec 4

/-- A general register's number, 0x0 to 0xF (R20). -/
abbrev RegIdx := Fin 16

/-- The flag register's number (R22, `FLAG_REG`). -/
abbrev vf : RegIdx := 15

end Sys2Proof
end

