-- ==== Sys2Proof/Syntax.lean ====
section
/-! DEFINITION. The instruction set as syntax: one constructor per row of spec/opcode_table.json (30_encoding.md R93). -/

namespace Sys2Proof

/-- The 34 instructions and the no-op handler (R93). A field an instruction ignores (the low nibble of 5xyN and 9xyN, the `y`
of 8xy6 and 8xyE, the whole word of the no-op) is kept as an operand, so that no bit of a word is lost by decoding. -/
inductive Instr where
  /-- 00E0 CLS (R190). -/
  | cls
  /-- 00EE RET (R121). -/
  | ret
  /-- 1nnn JP nnn (R122). -/
  | jp (nnn : Addr12)
  /-- 2nnn CALL nnn (R123). -/
  | call (nnn : Addr12)
  /-- 3xkk SE Vx, kk (R124). -/
  | seImm (x : RegIdx) (kk : Byte)
  /-- 4xkk SNE Vx, kk (R125). -/
  | sneImm (x : RegIdx) (kk : Byte)
  /-- 5xyN SE Vx, Vy (R126), `N` ignored (R90). -/
  | seReg (x y : RegIdx) (ignored : Nibble)
  /-- 6xkk LD Vx, kk (R140). -/
  | ldImm (x : RegIdx) (kk : Byte)
  /-- 7xkk ADD Vx, kk (R141). -/
  | addImm (x : RegIdx) (kk : Byte)
  /-- 8xy0 LD Vx, Vy (R143). -/
  | ldReg (x y : RegIdx)
  /-- 8xy1 OR Vx, Vy (R144). -/
  | orReg (x y : RegIdx)
  /-- 8xy2 AND Vx, Vy (R145). -/
  | andReg (x y : RegIdx)
  /-- 8xy3 XOR Vx, Vy (R146). -/
  | xorReg (x y : RegIdx)
  /-- 8xy4 ADD Vx, Vy (R147). -/
  | addReg (x y : RegIdx)
  /-- 8xy5 SUB Vx, Vy (R148). -/
  | subReg (x y : RegIdx)
  /-- 8xy6 SHR Vx (R149), `y` ignored. -/
  | shr (x y : RegIdx)
  /-- 8xy7 SUBN Vx, Vy (R150). -/
  | subnReg (x y : RegIdx)
  /-- 8xyE SHL Vx (R151), `y` ignored. -/
  | shl (x y : RegIdx)
  /-- 9xyN SNE Vx, Vy (R127), `N` ignored (R90). -/
  | sneReg (x y : RegIdx) (ignored : Nibble)
  /-- Annn LD I, nnn (R170). -/
  | ldI (nnn : Addr12)
  /-- Bnnn JP V0, nnn (R128). -/
  | jpV0 (nnn : Addr12)
  /-- Cxkk RND Vx, kk (R152). -/
  | rnd (x : RegIdx) (kk : Byte)
  /-- Dxyn DRW Vx, Vy, n (R191), `n` the number of rows. -/
  | drw (x y : RegIdx) (n : Fin 16)
  /-- Ex9E SKP Vx (R213). -/
  | skp (x : RegIdx)
  /-- ExA1 SKNP Vx (R214). -/
  | sknp (x : RegIdx)
  /-- Fx07 LD Vx, DT (R210). -/
  | ldVxDt (x : RegIdx)
  /-- Fx0A LD Vx, K (R215). -/
  | ldKey (x : RegIdx)
  /-- Fx15 LD DT, Vx (R211). -/
  | ldDtVx (x : RegIdx)
  /-- Fx18 LD ST, Vx (R212). -/
  | ldStVx (x : RegIdx)
  /-- Fx1E ADD I, Vx (R171). -/
  | addI (x : RegIdx)
  /-- Fx29 LD F, Vx (R172). -/
  | ldFont (x : RegIdx)
  /-- Fx33 LD B, Vx (R173). -/
  | bcd (x : RegIdx)
  /-- Fx55 LD [I], Vx (R174). -/
  | storeRegs (x : RegIdx)
  /-- Fx65 LD Vx, [I] (R175). -/
  | loadRegs (x : RegIdx)
  /-- Any other word: the no-op handler (R108), with the word itself. -/
  | nop (word : Word)
deriving DecidableEq, Repr

end Sys2Proof
end

