-- ==== Sys2Proof/WellFormed.lean ====
section
/-! DEFINITION. Which terms of `Instr` are instructions: the operand ranges hold by their types, and a no-op carries a word of the no-op space (30_encoding.md R91). -/

namespace Sys2Proof

/-- The no-op space, as R91 lists it by class: class 0x0 except 0x00E0 and 0x00EE, class 0x8 with `n` in {0x8..0xD, 0xF}, class
0xE with `kk` not in {0x9E, 0xA1}, class 0xF with `kk` not one of the nine values of R89. -/
def inNoOpSpace (w : Word) : Bool :=
  let c := w.extractLsb' 12 4
  let kk := w.extractLsb' 0 8
  let n := w.extractLsb' 0 4
  (c == 0x0 && w != 0x00E0 && w != 0x00EE) ||
  (c == 0x8 && ([0x8, 0x9, 0xA, 0xB, 0xC, 0xD, 0xF] : List Nibble).contains n) ||
  (c == 0xE && !(([0x9E, 0xA1] : List Byte).contains kk)) ||
  (c == 0xF && !(([0x07, 0x0A, 0x15, 0x18, 0x1E, 0x29, 0x33, 0x55, 0x65] : List Byte).contains kk))

/-- A term is an instruction: only the no-op has a check that its operands' types do not make. -/
def Instr.wf : Instr → Bool
  | .nop w => inNoOpSpace w
  | .cls | .ret | .jp _ | .call _ | .seImm _ _ | .sneImm _ _ | .seReg _ _ _ | .ldImm _ _ | .addImm _ _
  | .ldReg _ _ | .orReg _ _ | .andReg _ _ | .xorReg _ _ | .addReg _ _ | .subReg _ _ | .shr _ _ | .subnReg _ _ | .shl _ _
  | .sneReg _ _ _ | .ldI _ | .jpV0 _ | .rnd _ _ | .drw _ _ _ | .skp _ | .sknp _ | .ldVxDt _ | .ldKey _ | .ldDtVx _
  | .ldStVx _ | .addI _ | .ldFont _ | .bcd _ | .storeRegs _ | .loadRegs _ => true

end Sys2Proof
end

