-- ==== Sys2Proof/Decode.lean ====
section
/-! DEFINITION. The decoder and, after it, the encoder and the opcode map (30_encoding.md R80 to R93). -/

namespace Sys2Proof

/-! ### Fields of a word (R82) -/

/-- `c = w[15:12]`. -/
def classOf (w : Word) : Nibble := w.extractLsb' 12 4
/-- `x = w[11:8]`. -/
def fieldX (w : Word) : RegIdx := (w.extractLsb' 8 4).toFin
/-- `y = w[7:4]`. -/
def fieldY (w : Word) : RegIdx := (w.extractLsb' 4 4).toFin
/-- `n = w[3:0]`. -/
def fieldN (w : Word) : Nibble := w.extractLsb' 0 4
/-- `kk = w[7:0]`. -/
def fieldKK (w : Word) : Byte := w.extractLsb' 0 8
/-- `nnn = w[11:0]`. -/
def fieldNNN (w : Word) : Addr12 := w.extractLsb' 0 12

/-! ### The two-level decoder (R85) -/

/-- Class 0x0, by the whole word (R86). -/
def decodeClass0 (w : Word) : Instr :=
  if w = 0x00E0 then .cls else if w = 0x00EE then .ret else .nop w

/-- Class 0x8, by the sub-nibble (R87). -/
def decodeClass8 (w : Word) : Instr :=
  match (fieldN w).toNat with
  | 0x0 => .ldReg (fieldX w) (fieldY w)
  | 0x1 => .orReg (fieldX w) (fieldY w)
  | 0x2 => .andReg (fieldX w) (fieldY w)
  | 0x3 => .xorReg (fieldX w) (fieldY w)
  | 0x4 => .addReg (fieldX w) (fieldY w)
  | 0x5 => .subReg (fieldX w) (fieldY w)
  | 0x6 => .shr (fieldX w) (fieldY w)
  | 0x7 => .subnReg (fieldX w) (fieldY w)
  | 0xE => .shl (fieldX w) (fieldY w)
  | _ => .nop w

/-- Class 0xE, by the trailing byte (R88). -/
def decodeClassE (w : Word) : Instr :=
  if fieldKK w = 0x9E then .skp (fieldX w) else if fieldKK w = 0xA1 then .sknp (fieldX w) else .nop w

/-- Class 0xF, by the trailing byte (R89). -/
def decodeClassF (w : Word) : Instr :=
  if fieldKK w = 0x07 then .ldVxDt (fieldX w)
  else if fieldKK w = 0x0A then .ldKey (fieldX w)
  else if fieldKK w = 0x15 then .ldDtVx (fieldX w)
  else if fieldKK w = 0x18 then .ldStVx (fieldX w)
  else if fieldKK w = 0x1E then .addI (fieldX w)
  else if fieldKK w = 0x29 then .ldFont (fieldX w)
  else if fieldKK w = 0x33 then .bcd (fieldX w)
  else if fieldKK w = 0x55 then .storeRegs (fieldX w)
  else if fieldKK w = 0x65 then .loadRegs (fieldX w)
  else .nop w

/-- Decode one word: total and pure (R96). The last arm is the top-level default of R91, which no word reaches. -/
def decodeWord (w : Word) : Instr :=
  match (classOf w).toNat with
  | 0x0 => decodeClass0 w
  | 0x1 => .jp (fieldNNN w)
  | 0x2 => .call (fieldNNN w)
  | 0x3 => .seImm (fieldX w) (fieldKK w)
  | 0x4 => .sneImm (fieldX w) (fieldKK w)
  | 0x5 => .seReg (fieldX w) (fieldY w) (fieldN w)
  | 0x6 => .ldImm (fieldX w) (fieldKK w)
  | 0x7 => .addImm (fieldX w) (fieldKK w)
  | 0x8 => decodeClass8 w
  | 0x9 => .sneReg (fieldX w) (fieldY w) (fieldN w)
  | 0xA => .ldI (fieldNNN w)
  | 0xB => .jpV0 (fieldNNN w)
  | 0xC => .rnd (fieldX w) (fieldKK w)
  | 0xD => .drw (fieldX w) (fieldY w) (fieldN w).toFin
  | 0xE => decodeClassE w
  | 0xF => decodeClassF w
  | _ => .nop w

/-- Why a byte sequence holds no instruction: every word decodes (R92), so only a missing byte can refuse. -/
inductive DecodeRefusal where
  /-- Fewer than the two bytes of an instruction (R80); raised by `decodeBytes` alone (safe: a step reads both bytes from
  memory or raises FETCH_OOB). -/
  | truncated
deriving DecidableEq, Repr

/-- Two bytes as a word, the first one in bits 15:8 (R63). -/
def bigEndian (hi lo : Byte) : Word := hi ++ lo

/-- Decode the instruction at the head of a byte sequence, and give the bytes after it (R80, R81). -/
def decodeBytes : List Byte → Except DecodeRefusal (Instr × List Byte)
  | hi :: lo :: rest => .ok (decodeWord (bigEndian hi lo), rest)
  | _ => .error .truncated

/-! ### The encoder -/

/-- A register number as its 4-bit field. -/
def regField (x : RegIdx) : Nibble := BitVec.ofNat 4 x.val
/-- A word of format `c x y n` (R82). -/
def wordXYN (c : Nibble) (x y : RegIdx) (n : Nibble) : Word := c ++ regField x ++ regField y ++ n
/-- A word of format `c x kk` (R82). -/
def wordXKK (c : Nibble) (x : RegIdx) (kk : Byte) : Word := c ++ regField x ++ kk
/-- A word of format `c nnn` (R82). -/
def wordNNN (c : Nibble) (nnn : Addr12) : Word := c ++ nnn

/-- The word of an instruction (R93). -/
def encode : Instr → Word
  | .cls => 0x00E0
  | .ret => 0x00EE
  | .jp nnn => wordNNN 0x1 nnn
  | .call nnn => wordNNN 0x2 nnn
  | .seImm x kk => wordXKK 0x3 x kk
  | .sneImm x kk => wordXKK 0x4 x kk
  | .seReg x y k => wordXYN 0x5 x y k
  | .ldImm x kk => wordXKK 0x6 x kk
  | .addImm x kk => wordXKK 0x7 x kk
  | .ldReg x y => wordXYN 0x8 x y 0x0
  | .orReg x y => wordXYN 0x8 x y 0x1
  | .andReg x y => wordXYN 0x8 x y 0x2
  | .xorReg x y => wordXYN 0x8 x y 0x3
  | .addReg x y => wordXYN 0x8 x y 0x4
  | .subReg x y => wordXYN 0x8 x y 0x5
  | .shr x y => wordXYN 0x8 x y 0x6
  | .subnReg x y => wordXYN 0x8 x y 0x7
  | .shl x y => wordXYN 0x8 x y 0xE
  | .sneReg x y k => wordXYN 0x9 x y k
  | .ldI nnn => wordNNN 0xA nnn
  | .jpV0 nnn => wordNNN 0xB nnn
  | .rnd x kk => wordXKK 0xC x kk
  | .drw x y n => wordXYN 0xD x y (regField n)
  | .skp x => wordXKK 0xE x 0x9E
  | .sknp x => wordXKK 0xE x 0xA1
  | .ldVxDt x => wordXKK 0xF x 0x07
  | .ldKey x => wordXKK 0xF x 0x0A
  | .ldDtVx x => wordXKK 0xF x 0x15
  | .ldStVx x => wordXKK 0xF x 0x18
  | .addI x => wordXKK 0xF x 0x1E
  | .ldFont x => wordXKK 0xF x 0x29
  | .bcd x => wordXKK 0xF x 0x33
  | .storeRegs x => wordXKK 0xF x 0x55
  | .loadRegs x => wordXKK 0xF x 0x65
  | .nop w => w

/-- The two bytes of an instruction as memory holds them, high byte first (R63). -/
def encodeBytes (i : Instr) : List Byte := [(encode i).extractLsb' 8 8, (encode i).extractLsb' 0 8]

/-! ### The opcode map (R93) as data -/

/-- One row of R93's table: `w` selects it when `w AND mask = pattern`. -/
structure OpcodeRow where
  /-- The row's number in R93. -/
  number : Nat
  /-- The column `match`. -/
  pattern : Word
  /-- The column `mask`. -/
  mask : Word
deriving DecidableEq, Repr

/-- A word selects a row (R93). -/
def OpcodeRow.selects (r : OpcodeRow) (w : Word) : Bool := w &&& r.mask == r.pattern

/-- Rows 1 to 34 of R93. -/
def opcodeRows : List OpcodeRow :=
  [⟨1, 0x00E0, 0xFFFF⟩, ⟨2, 0x00EE, 0xFFFF⟩, ⟨3, 0x1000, 0xF000⟩, ⟨4, 0x2000, 0xF000⟩, ⟨5, 0x3000, 0xF000⟩,
   ⟨6, 0x4000, 0xF000⟩, ⟨7, 0x5000, 0xF000⟩, ⟨8, 0x6000, 0xF000⟩, ⟨9, 0x7000, 0xF000⟩] ++
  [⟨10, 0x8000, 0xF00F⟩, ⟨11, 0x8001, 0xF00F⟩, ⟨12, 0x8002, 0xF00F⟩, ⟨13, 0x8003, 0xF00F⟩, ⟨14, 0x8004, 0xF00F⟩,
   ⟨15, 0x8005, 0xF00F⟩, ⟨16, 0x8006, 0xF00F⟩, ⟨17, 0x8007, 0xF00F⟩, ⟨18, 0x800E, 0xF00F⟩, ⟨19, 0x9000, 0xF000⟩,
   ⟨20, 0xA000, 0xF000⟩, ⟨21, 0xB000, 0xF000⟩, ⟨22, 0xC000, 0xF000⟩, ⟨23, 0xD000, 0xF000⟩] ++
  [⟨24, 0xE09E, 0xF0FF⟩, ⟨25, 0xE0A1, 0xF0FF⟩, ⟨26, 0xF007, 0xF0FF⟩, ⟨27, 0xF00A, 0xF0FF⟩, ⟨28, 0xF015, 0xF0FF⟩,
   ⟨29, 0xF018, 0xF0FF⟩, ⟨30, 0xF01E, 0xF0FF⟩, ⟨31, 0xF029, 0xF0FF⟩, ⟨32, 0xF033, 0xF0FF⟩, ⟨33, 0xF055, 0xF0FF⟩,
   ⟨34, 0xF065, 0xF0FF⟩]

/-- The row of R93 an instruction stands for; 35 is the default row. -/
def Instr.row : Instr → Nat
  | .cls => 1
  | .ret => 2
  | .jp _ => 3
  | .call _ => 4
  | .seImm _ _ => 5
  | .sneImm _ _ => 6
  | .seReg _ _ _ => 7
  | .ldImm _ _ => 8
  | .addImm _ _ => 9
  | .ldReg _ _ => 10
  | .orReg _ _ => 11
  | .andReg _ _ => 12
  | .xorReg _ _ => 13
  | .addReg _ _ => 14
  | .subReg _ _ => 15
  | .shr _ _ => 16
  | .subnReg _ _ => 17
  | .shl _ _ => 18
  | .sneReg _ _ _ => 19
  | .ldI _ => 20
  | .jpV0 _ => 21
  | .rnd _ _ => 22
  | .drw _ _ _ => 23
  | .skp _ => 24
  | .sknp _ => 25
  | .ldVxDt _ => 26
  | .ldKey _ => 27
  | .ldDtVx _ => 28
  | .ldStVx _ => 29
  | .addI _ => 30
  | .ldFont _ => 31
  | .bcd _ => 32
  | .storeRegs _ => 33
  | .loadRegs _ => 34
  | .nop _ => 35

/-! ### The host's question -/

/-- The first word of an instruction whose bits, numbered as spec/opcode_table.json numbers them, are `w`, and whose bits from
`nbits` up are 0. Every instruction is one word (R81). -/
def tableWord (nbits w : Nat) : Word := BitVec.ofNat 16 (w % 2 ^ nbits)

/-- The instruction the decoder reads from that instruction's bytes, laid out as memory holds them (R63). -/
def decodeTableWord (nbits w : Nat) : Option Instr :=
  match decodeBytes [(tableWord nbits w).extractLsb' 8 8, (tableWord nbits w).extractLsb' 0 8] with
  | .ok (i, _) => some i
  | .error _ => none

end Sys2Proof
end

