-- ==== Sys2Proof/Config.lean ====
section
/-! DEFINITION. The implementation parameters of 00_scope.md R6, the constraints the model checks on them, and the free values of the step inputs (R41, R42). -/

namespace Sys2Proof

/-- Parameter `SPRITE_EDGE` (R6, R193): what a set sprite bit beyond the framebuffer does. -/
inductive SpriteEdge where
  /-- The bit has no effect. -/
  | clip
  /-- The bit raises `Fault(SPRITE_EDGE)`. -/
  | fault
deriving DecidableEq, Repr

/-- Parameter `RESERVED_WRITE` (R6, R62): what a store into 0x000..0x1FF does. -/
inductive ReservedWrite where
  /-- The store happens. -/
  | allow
  /-- The store raises `Fault(RESERVED_WRITE)`. -/
  | fault
deriving DecidableEq, Repr

/-- The parameters a model takes as arguments (R6). `Sys2Proof.Config.default` holds the defaults. -/
structure Config where
  /-- `MEM_SIZE`, the number of bytes of memory. -/
  memSize : Nat
  /-- `ENTRY`, where programs are loaded and where `pc` starts. -/
  entry : Nat
  /-- `FB_W`, columns of the framebuffer. -/
  fbW : Nat
  /-- `FB_H`, rows of the framebuffer. -/
  fbH : Nat
  /-- `FONT_BASE`, where reset installs the font table. -/
  fontBase : Nat
  /-- `FONT_DATA`, the bytes of the font table. -/
  fontData : List Byte
  /-- `FONT_ADDR_BASE`, the address of glyph 0 as `Fx29` computes it. -/
  fontAddrBase : Nat
  /-- `PIXEL_BITS`, the width of a pixel word at the host's port. -/
  pixelBits : Nat
  /-- `SPRITE_EDGE`. -/
  spriteEdge : SpriteEdge
  /-- `RESERVED_WRITE`. -/
  reservedWrite : ReservedWrite
deriving DecidableEq, Repr

namespace Config

/-- `NREGS` (R6), fixed by the constraint `NREGS = 16`. -/
abbrev nregs : Nat := 16
/-- `KEY_COUNT` (R6), fixed by the constraint `KEY_COUNT = 16`. -/
abbrev keyCount : Nat := 16
/-- `STACK_DEPTH` (R6). -/
abbrev stackDepth : Nat := 16
/-- `FONT_GLYPHS` times `FONT_GLYPH_BYTES` (R6, R67): 16 glyphs of 5 bytes. -/
abbrev fontBytes : Nat := 80
/-- `RESERVED_HI` (R6): the last address of the reserved region. -/
abbrev reservedHi : Nat := 0x1FF

/-- The constraints of R6 on the arguments, and the length of the font table (R67: 16 glyphs of 5 bytes; log 15).
`KEY_COUNT = 16` and `NREGS = 16` hold by the types of the key vector and the register file. -/
abbrev wf (c : Config) : Prop :=
  c.memSize ≤ 65536 ∧ c.entry < c.memSize ∧ c.fontBase + fontBytes ≤ c.entry ∧
    1 ≤ c.fbW ∧ 1 ≤ c.fbH ∧ c.fontData.length = fontBytes

/-- FREE VALUE (R41, R53; log 3): the key vector the host presents with STEP request number `n`, where the model's state
queues no input for it. Nothing constrains it. -/
opaque freeKeys : Nat → BitVec 16

/-- FREE VALUE (R42, D11; log 3): the random byte drawn by STEP request number `n`, where the model's state queues no input
for it. Nothing constrains it. -/
opaque freeRnd : Nat → Byte

end Config

end Sys2Proof
end

