-- ==== Sys2Proof/Machine/Parameters.lean ====
section
/-! DEFINITION. The default values of the parameters (00_scope.md R6) and the default font table (20_memory.md R67). -/

namespace Sys2Proof

/-- `FONT_DATA` by default: the glyphs of the digits 0 to F, five rows each (R67; PRESUMED by the spec itself, "from general
knowledge, not in source", log 4). -/
def defaultFontData : List Byte :=
  [0xF0, 0x90, 0x90, 0x90, 0xF0,  0x20, 0x60, 0x20, 0x20, 0x70,  0xF0, 0x10, 0xF0, 0x80, 0xF0,  0xF0, 0x10, 0xF0, 0x10, 0xF0] ++
  [0x90, 0x90, 0xF0, 0x10, 0x10,  0xF0, 0x80, 0xF0, 0x10, 0xF0,  0xF0, 0x80, 0xF0, 0x90, 0xF0,  0xF0, 0x10, 0x20, 0x40, 0x40] ++
  [0xF0, 0x90, 0xF0, 0x90, 0xF0,  0xF0, 0x90, 0xF0, 0x10, 0xF0,  0xF0, 0x90, 0xF0, 0x90, 0x90,  0xE0, 0x90, 0xE0, 0x90, 0xE0] ++
  [0xF0, 0x80, 0x80, 0x80, 0xF0,  0xE0, 0x90, 0x90, 0x90, 0xE0,  0xF0, 0x80, 0xF0, 0x80, 0xF0,  0xF0, 0x80, 0xF0, 0x80, 0x80]

/-- The parameters at their defaults (R6). -/
def Config.default : Config where
  memSize := 4096
  entry := 0x200
  fbW := 16
  fbH := 16
  fontBase := 0x050
  fontData := defaultFontData
  fontAddrBase := 0x050
  pixelBits := 32
  spriteEdge := .clip
  reservedWrite := .allow

end Sys2Proof
end

