-- ==== Sys2Proof/Machine/State.lean ====
section
/-! DEFINITION. The machine's state, all of it (10_state.md R20 to R59), the reasons a step could stop, and the state after reset (70_reset_and_hazards.md R260). -/

namespace Sys2Proof.Machine

/-- The causes of `raise Fault` (60_exceptions.md R231), recorded in FAULT_CAUSE. A raised fault is a NEXT state with STATUS =
FAULTED, as R232 describes it (log 1): the type also stands for the host's `Outcome.fault`, which no step answers. -/
inductive Fault where
  /-- Code 1, raised by the fetch of any step, when a byte of the word is at or beyond MEM_SIZE (R102). Safe: as the spec says. -/
  | fetchOob
  /-- Code 2, raised by `drw` and `loadRegs`, on a read at or beyond MEM_SIZE (R191, R175). Safe: as the spec says. -/
  | readOob
  /-- Code 3, raised by `bcd` and `storeRegs`, on a write at or beyond MEM_SIZE (R173, R174). Safe: as the spec says. -/
  | writeOob
  /-- Code 4, raised by `call`, when SP = 16 (R123). Safe: as the spec says. -/
  | stackOverflow
  /-- Code 5, raised by `ret`, when SP = 0 (R121). Safe: as the spec says. -/
  | stackUnderflow
  /-- Code 6, raised by `skp` and `sknp`, when V[x] is no key number (R213, R214). Safe: as the spec says. -/
  | keyOob
  /-- Code 7, raised by `drw` under SPRITE_EDGE = fault, by a set bit outside the framebuffer (R193). Safe: as the spec says. -/
  | spriteEdge
  /-- Code 8, raised by `bcd` and `storeRegs` under RESERVED_WRITE = fault, by a write at or below 0x1FF (R62). Safe: as the
  spec says. -/
  | reservedWrite
deriving DecidableEq, Repr

/-- Why an instruction has no next state: only for want of a meaning, and every instruction has one. -/
inductive Refusal where
  /-- The instruction has no meaning yet; raised by an arm of `exec` that stands refused (safe). No arm does. -/
  | notModelled (mnemonic : String)
deriving DecidableEq, Repr

/-- STATUS (R44). -/
inductive Status where
  | running
  | faulted
deriving DecidableEq, Repr

/-- What the host presents with one STEP request (R50): KEYS and RND. -/
structure StepInput where
  /-- KEYS[15:0], bit `k` set when key `k` is pressed (R41, R50). -/
  keys : BitVec 16
  /-- RND[7:0] (R42). -/
  rnd : Byte
deriving DecidableEq, Repr

/-- Memory as the list of the bytes that differ from the reset contents, addresses rising (log 6). -/
abbrev Memory := List Host.Cell

/-- The state of the block, and after it the model's own fields. -/
structure State where
  /-- V[0x0] to V[0xF] (R20). -/
  v : Vector Byte 16
  /-- The program counter (R25). -/
  pc : Word
  /-- The index register I (R30). -/
  index : Word
  /-- SP, the number of occupied stack slots, 0 to 16 (R33, log 8). -/
  sp : Fin 17
  /-- STACK[0] to STACK[15] (R32). -/
  stack : Vector Word 16
  /-- The delay timer DT (R35). -/
  dt : Byte
  /-- The sound timer ST (R35). -/
  st : Byte
  /-- The framebuffer, one bit per pixel, row-major (R38, R39). -/
  fb : List Bool
  /-- The memory (R43, R60). -/
  mem : Memory
  /-- STATUS (R44). -/
  status : Status
  /-- FAULT_CAUSE, `none` for code 0 (R45, R231, log 8). -/
  faultCause : Option Fault
  /-- FAULT_PC (R45). -/
  faultPc : Word
  /-- FAULT_INFO (R45). -/
  faultInfo : BitVec 17
  /-- STARTED (R46). -/
  started : Bool
  /-- FB_DIRTY (R47). -/
  fbDirty : Bool
  /-- DIAG_UNKNOWN (R47). -/
  diagUnknown : Bool
  /-- DIAG_WORD (R47). -/
  diagWord : Word
  /-- MODEL: the parameters of R6, which nothing changes (log 2). -/
  cfg : Config
  /-- MODEL: the inputs of the coming STEP requests, oldest first (log 3). -/
  inputs : List StepInput
  /-- MODEL: the number of STEP requests served, the index of the free values (log 3). -/
  tick : Nat
deriving DecidableEq, Repr

/-- The state after reset under given parameters (R260): every item of R260's table, and the model's own fields (logs 2, 3). -/
def State.resetWith (c : Config) : State where
  v := Vector.replicate 16 0
  pc := BitVec.ofNat 16 c.entry
  index := 0
  sp := 0
  stack := Vector.replicate 16 0
  dt := 0
  st := 0
  fb := List.replicate (c.fbH * c.fbW) false
  mem := []
  status := .running
  faultCause := none
  faultPc := 0
  faultInfo := 0
  started := false
  fbDirty := false
  diagUnknown := false
  diagWord := 0
  cfg := c
  inputs := []
  tick := 0

/-- The state after reset (R260) with the parameters at their defaults (R6). -/
def State.reset : State := State.resetWith Config.default

end Sys2Proof.Machine
end

