-- ==== Sys2Proof/Machine/Ops.lean ====
section
/-! DEFINITION. The named operations over memory, registers, stack and framebuffer, raising a fault, the fetch, and what a step does around the handler (10_state.md, 20_memory.md, 40_cycle.md, 60_exceptions.md). -/

namespace Sys2Proof.Machine

/-- `raise Fault(cause, info)` before it is taken (R12). -/
structure Raise where
  /-- The cause (R231). -/
  cause : Fault
  /-- The value for FAULT_INFO (R233). -/
  info : Nat
deriving DecidableEq, Repr

/-- The code of a cause in FAULT_CAUSE (R231). -/
def Fault.code : Fault → BitVec 4
  | .fetchOob => 1
  | .readOob => 2
  | .writeOob => 3
  | .stackOverflow => 4
  | .stackUnderflow => 5
  | .keyOob => 6
  | .spriteEdge => 7
  | .reservedWrite => 8

/-! ### Memory (R60 to R62) -/

/-- What a byte that nothing has written reads as: the reset contents, zero and over it the font table (R261, R262). -/
def resetByte (c : Config) (a : Nat) : Byte :=
  if c.fontBase ≤ a ∧ a < c.fontBase + Config.fontBytes then c.fontData.getD (a - c.fontBase) 0 else 0

/-- The listed byte at an address, if there is one. -/
def Memory.lookup : Memory → Nat → Option Byte
  | [], _ => none
  | (a, b) :: m, k => if a = k then some b else Memory.lookup m k

/-- List a byte at an address, keeping the addresses rising. -/
def Memory.put : Memory → Nat → Byte → Memory
  | [], k, v => [(k, v)]
  | (a, b) :: m, k, v =>
    if k < a then (k, v) :: (a, b) :: m
    else if a = k then (k, v) :: m
    else (a, b) :: Memory.put m k v

/-- List no byte at an address. -/
def Memory.drop : Memory → Nat → Memory
  | [], _ => []
  | (a, b) :: m, k => if a = k then Memory.drop m k else (a, b) :: Memory.drop m k

/-- The byte at an address. -/
def Memory.read (c : Config) (m : Memory) (a : Nat) : Byte := (Memory.lookup m a).getD (resetByte c a)

/-- Memory with a byte replaced: a byte equal to the reset contents is not listed (log 6). -/
def Memory.write (c : Config) (m : Memory) (a : Nat) (b : Byte) : Memory :=
  if b = resetByte c a then Memory.drop m a else Memory.put m a b

/-- The canonical form: addresses strictly rising and below MEM_SIZE, no listed byte equal to the reset contents. -/
abbrev Memory.wf (c : Config) (m : Memory) : Prop :=
  m.Pairwise (fun p q => p.1 < q.1) ∧ ∀ p ∈ m, p.1 < c.memSize ∧ p.2 ≠ resetByte c p.1

/-- `MEM[a]` (R60). -/
def State.byteAt (s : State) (a : Nat) : Byte := Memory.read s.cfg s.mem a

/-- `MEM[a] <- b`, with no check. -/
def State.setByte (s : State) (a : Nat) (b : Byte) : State := { s with mem := Memory.write s.cfg s.mem a b }

/-- `MEM[a + k] <- P[k]` for every byte of `P`, with no check (R265). -/
def State.setBytes (s : State) (a : Nat) : List Byte → State
  | [] => s
  | b :: bs => (s.setByte a b).setBytes (a + 1) bs

/-- `MemRead(a, 1)` (R61), with the cause an access out of range raises. -/
def State.memRead (s : State) (cause : Fault) (a : Nat) : Except Raise Byte :=
  if s.cfg.memSize ≤ a then .error ⟨cause, a⟩ else .ok (s.byteAt a)

/-- `MemWrite(a, 1, b)` (R62): the bound first, then the reserved region (R237). -/
def State.memWrite (s : State) (a : Nat) (b : Byte) : Except Raise State :=
  if s.cfg.memSize ≤ a then .error ⟨.writeOob, a⟩
  else if s.cfg.reservedWrite = .fault ∧ a ≤ Config.reservedHi then .error ⟨.reservedWrite, a⟩
  else .ok (s.setByte a b)

/-- Bytes read one after the other from `a` up (R175). -/
def State.readBytes (s : State) (a : Nat) : Nat → Except Raise (List Byte)
  | 0 => .ok []
  | n + 1 =>
    match s.memRead .readOob a with
    | .error e => .error e
    | .ok b =>
      match s.readBytes (a + 1) n with
      | .error e => .error e
      | .ok bs => .ok (b :: bs)

/-- Bytes written one after the other from `a` up (R173, R174). -/
def State.writeBytes (s : State) (a : Nat) : List Byte → Except Raise State
  | [] => .ok s
  | b :: bs =>
    match s.memWrite a b with
    | .error e => .error e
    | .ok t => t.writeBytes (a + 1) bs

/-! ### Registers (R20 to R36) -/

/-- `V[i]` (R20). -/
def State.reg (s : State) (i : RegIdx) : Byte := s.v[i.val]

/-- `V[i] <- b`: no register is hardwired (R20). -/
def State.setReg (s : State) (i : RegIdx) (b : Byte) : State := { s with v := s.v.set i.val b }

/-- `V[0..] <- bs`: registers past the list keep their values (R175). -/
def State.setRegs (s : State) (bs : List Byte) : State :=
  { s with v := Vector.ofFn fun j : Fin 16 => bs.getD j.val (s.reg j) }

/-- `pc <- a`. -/
def State.setPc (s : State) (a : Word) : State := { s with pc := a }

/-- `I <- a`. -/
def State.setIndex (s : State) (a : Word) : State := { s with index := a }

/-- `DT <- b`. -/
def State.setDt (s : State) (b : Byte) : State := { s with dt := b }

/-- `ST <- b`. -/
def State.setSt (s : State) (b : Byte) : State := { s with st := b }

/-! ### The call stack (R32, R33) -/

/-- `STACK[SP] <- a; SP <- SP + 1`, or STACK_OVERFLOW with SP when all 16 levels are full (R123). -/
def State.push (s : State) (a : Word) : Except Raise State :=
  if h : s.sp.val < 16 then .ok { s with stack := s.stack.set s.sp.val a, sp := ⟨s.sp.val + 1, by omega⟩ }
  else .error ⟨.stackOverflow, s.sp.val⟩

/-- `SP <- SP - 1` and the slot it then names, which keeps its value; STACK_UNDERFLOW with SP when SP = 0 (R121, D30). -/
def State.pop (s : State) : Except Raise (Word × State) :=
  if h : 0 < s.sp.val then
    .ok (s.stack[s.sp.val - 1]'(by have := s.sp.isLt; omega), { s with sp := ⟨s.sp.val - 1, by have := s.sp.isLt; omega⟩ })
  else .error ⟨.stackUnderflow, s.sp.val⟩

/-! ### The framebuffer (R38) -/

/-- `FB[r][c]`, pixel number `r * FB_W + c` (R39). -/
def State.pixel (s : State) (r c : Nat) : Bool := s.fb.getD (r * s.cfg.fbW + c) false

/-- `FB[r][c] <- FB[r][c] XOR 1`. -/
def State.togglePixel (s : State) (r c : Nat) : State := { s with fb := s.fb.modify (r * s.cfg.fbW + c) (fun p => !p) }

/-- Every pixel off (R190). -/
def State.clearFb (s : State) : State := { s with fb := List.replicate (s.cfg.fbH * s.cfg.fbW) false }

/-! ### Taking a fault (R232) -/

/-- `raise Fault` taken in a state whose registers, memory, stack, timers and framebuffer are those of the step's start and
whose `pc` is the address of the step's word: STATUS, the record and the outputs are written, nothing else changes. DIAG_WORD
already holds the word, or 0 (`State.afterFetch`, `State.fetchFault`). -/
def State.takeFault (s : State) (e : Raise) : State :=
  { s with
    status := .faulted
    faultCause := some e.cause
    faultPc := s.pc
    faultInfo := BitVec.ofNat 17 e.info
    fbDirty := false
    diagUnknown := false }

/-- A handler's raise: `pc` goes back to `ipc`, two below it (R103, R232); the handler's own writes are dropped because the
state given is the one it started from. -/
def State.abort (s : State) (e : Raise) : State := (s.setPc (s.pc - 2)).takeFault e

/-- A handler's end: its state, or the fault it raised in the state it started from. There is no return from a fault (R235). -/
def State.settle (s : State) : Except Raise State → State
  | .ok t => t
  | .error e => s.abort e

/-! ### The step around the handler (R100) -/

/-- The word at `pc`, high byte first, or FETCH_OOB with the first address out of range (R102, R233). -/
def State.fetch (s : State) : Except Raise Word :=
  match s.memRead .fetchOob s.pc.toNat with
  | .error e => .error e
  | .ok hi =>
    match s.memRead .fetchOob (s.pc.toNat + 1) with
    | .error e => .error e
    | .ok lo => .ok (bigEndian hi lo)

/-- After a completed fetch: STARTED is 1 (R46), the word is in DIAG_WORD (R47, R232) and `pc` is past it (R103). -/
def State.afterFetch (s : State) (w : Word) : State := { s with started := true, diagWord := w, pc := s.pc + 2 }

/-- A fetch that faults: STARTED is 1 and DIAG_WORD is 0 (R232). -/
def State.fetchFault (s : State) (e : Raise) : State := { s with started := true, diagWord := 0 }.takeFault e

/-- One countdown of a timer (R105, R35). -/
def countDown (d : Byte) : Byte := if d = 0 then 0 else d - 1

/-- The model's inputs after one STEP request is served (log 3). -/
def State.nextInput (s : State) : State := { s with inputs := s.inputs.tail, tick := s.tick + 1 }

/-- The instruction draws: FB_DIRTY is 1 after it (R47, R110). -/
def draws : Instr → Bool
  | .cls | .drw _ _ _ => true
  | .ret | .jp _ | .call _ | .seImm _ _ | .sneImm _ _ | .seReg _ _ _ | .ldImm _ _ | .addImm _ _
  | .ldReg _ _ | .orReg _ _ | .andReg _ _ | .xorReg _ _ | .addReg _ _ | .subReg _ _ | .shr _ _ | .subnReg _ _ | .shl _ _
  | .sneReg _ _ _ | .ldI _ | .jpV0 _ | .rnd _ _ | .skp _ | .sknp _ | .ldVxDt _ | .ldKey _ | .ldDtVx _
  | .ldStVx _ | .addI _ | .ldFont _ | .bcd _ | .storeRegs _ | .loadRegs _ | .nop _ => false

/-- The instruction is the no-op handler: DIAG_UNKNOWN is 1 after it (R47, R110). -/
def isUnknown : Instr → Bool
  | .nop _ => true
  | .cls | .ret | .jp _ | .call _ | .seImm _ _ | .sneImm _ _ | .seReg _ _ _ | .ldImm _ _ | .addImm _ _
  | .ldReg _ _ | .orReg _ _ | .andReg _ _ | .xorReg _ _ | .addReg _ _ | .subReg _ _ | .shr _ _ | .subnReg _ _ | .shl _ _
  | .sneReg _ _ _ | .ldI _ | .jpV0 _ | .rnd _ _ | .drw _ _ _ | .skp _ | .sknp _ | .ldVxDt _ | .ldKey _ | .ldDtVx _
  | .ldStVx _ | .addI _ | .ldFont _ | .bcd _ | .storeRegs _ | .loadRegs _ => false

/-- What a completed step does after its handler: both timers count down (R105, R106) and the outputs are written (R110). -/
def State.complete (s : State) (i : Instr) : State :=
  { s with dt := countDown s.dt, st := countDown s.st, fbDirty := draws i, diagUnknown := isUnknown i }

/-- The end of a step: a step that faulted ends without the countdown (R232, R238). -/
def State.finish (s : State) (i : Instr) : State :=
  match s.status with
  | .running => (s.complete i).nextInput
  | .faulted => s.nextInput

/-- A word stored at an address, high byte first (R63), where both its bytes exist. -/
def State.pokeWord (s : State) (a : Nat) (w : Word) : State :=
  if a + 1 < s.cfg.memSize then (s.setByte a (w.extractLsb' 8 8)).setByte (a + 1) (w.extractLsb' 0 8) else s

end Sys2Proof.Machine
end

