-- ==== Sys2Proof/Machine/Flags.lean ====
section
/-! DEFINITION. The results and flags of the arithmetic instructions, and the order in which they are written (10_state.md R22, R23; 42_alu.md R142, R147 to R151). -/

namespace Sys2Proof.Machine

/-- A result `r` and its flag `f` (R142). -/
structure Flagged where
  /-- The result, written to the destination. -/
  result : Byte
  /-- The flag, written to VF. -/
  flag : Byte
deriving DecidableEq, Repr

/-- A flag's value in VF: 1 or 0. -/
def flagByte (b : Bool) : Byte := if b then 1 else 0

/-- `8xy4` (R147): the 9-bit sum, its low 8 bits, and the carry out of bit 7. -/
def addFlagged (a b : Byte) : Flagged :=
  let sum := a.toNat + b.toNat
  ⟨BitVec.ofNat 8 sum, flagByte (decide (255 < sum))⟩

/-- `8xy5` (R148), and `8xy7` with the operands swapped (R150): the difference mod 2^8, and the strict comparison. -/
def subFlagged (a b : Byte) : Flagged := ⟨a - b, flagByte (decide (b.toNat < a.toNat))⟩

/-- `8xy6` (R149): a shift right by 1, and bit 0. -/
def shrFlagged (a : Byte) : Flagged := ⟨a >>> 1, flagByte (a.getLsbD 0)⟩

/-- `8xyE` (R151): a shift left by 1, and bit 7. -/
def shlFlagged (a : Byte) : Flagged := ⟨a <<< 1, flagByte (a.getLsbD 7)⟩

/-- `VF <- f`, then `V[x] <- r` (R22, R142): where x = F the result stays and the flag is lost. -/
def State.writeFlagged (s : State) (x : RegIdx) (r : Flagged) : State := (s.setReg vf r.flag).setReg x r.result

end Sys2Proof.Machine
end

