-- ==== Sys2Proof/Machine/Operands.lean ====
section
/-! DEFINITION. Operand forms: immediates, implicit operands, key and random inputs, the skip primitive (30_encoding.md R83, R84; 41_control_flow.md R120; 45_timers_input.md). -/

namespace Sys2Proof.Machine

/-- `zext_16(nnn)` (R83). -/
def zext12 (nnn : Addr12) : Word := nnn.setWidth 16

/-- A byte as a 16-bit value (R9). -/
def zext8 (b : Byte) : Word := b.setWidth 16

/-- The effective address of the `k`-th byte, a natural number that never wraps (43_index_memory.md, R61). -/
def State.effAddr (s : State) (k : Nat) : Nat := s.index.toNat + k

/-- V[0..x], as `Fx55` stores them (R174). -/
def State.regsUpTo (s : State) (x : RegIdx) : List Byte := s.v.toList.take (x.val + 1)

/-- KEYS as sampled by this step (R53): the queued input, or the free value of this step. -/
def State.keys (s : State) : BitVec 16 :=
  match s.inputs with
  | i :: _ => i.keys
  | [] => Config.freeKeys s.tick

/-- RND as sampled by this step (R54): the queued input, or the free value of this step. -/
def State.rnd (s : State) : Byte :=
  match s.inputs with
  | i :: _ => i.rnd
  | [] => Config.freeRnd s.tick

/-- The key numbers in scanning order, from key 0 (R215). -/
def keyNumbers : List Nat := List.range Config.keyCount

/-- The first pressed key, scanning from key 0 (R215, D6). -/
def firstPressed (keys : BitVec 16) : Option Nat := keyNumbers.find? (fun k => keys.getLsbD k)

/-- The key number in a register, or KEY_OOB with it when it is no key (R213, R214, D5). -/
def State.keyNumber (s : State) (x : RegIdx) : Except Raise Nat :=
  if Config.keyCount ≤ (s.reg x).toNat then .error ⟨.keyOob, (s.reg x).toNat⟩ else .ok (s.reg x).toNat

/-- `Skip()` (R120). -/
def State.skip (s : State) : State := s.setPc (s.pc + 2)

/-- `if b: Skip()`. -/
def State.skipIf (s : State) (b : Bool) : State := if b then s.skip else s

end Sys2Proof.Machine
end

