-- ==== Sys2Proof/Machine/Alu.lean ====
section
/-! DEFINITION. Register loads and the ALU (42_alu.md R140 to R152). A meaning starts from the state after the fetch (R13). -/

namespace Sys2Proof.Machine

/-- 6xkk (R140). -/
def execLdImm (x : RegIdx) (kk : Byte) (s : State) : Host.Outcome State Fault Refusal := .next (s.setReg x kk)

/-- 7xkk (R141): no flag. -/
def execAddImm (x : RegIdx) (kk : Byte) (s : State) : Host.Outcome State Fault Refusal :=
  .next (s.setReg x (s.reg x + kk))

/-- 8xy0 (R143). -/
def execLdReg (x y : RegIdx) (s : State) : Host.Outcome State Fault Refusal := .next (s.setReg x (s.reg y))

/-- 8xy1 (R144): no flag. -/
def execOrReg (x y : RegIdx) (s : State) : Host.Outcome State Fault Refusal := .next (s.setReg x (s.reg x ||| s.reg y))

/-- 8xy2 (R145): no flag. -/
def execAndReg (x y : RegIdx) (s : State) : Host.Outcome State Fault Refusal := .next (s.setReg x (s.reg x &&& s.reg y))

/-- 8xy3 (R146): no flag. -/
def execXorReg (x y : RegIdx) (s : State) : Host.Outcome State Fault Refusal := .next (s.setReg x (s.reg x ^^^ s.reg y))

/-- 8xy4 (R147). -/
def execAddReg (x y : RegIdx) (s : State) : Host.Outcome State Fault Refusal :=
  .next (s.writeFlagged x (addFlagged (s.reg x) (s.reg y)))

/-- 8xy5 (R148). -/
def execSubReg (x y : RegIdx) (s : State) : Host.Outcome State Fault Refusal :=
  .next (s.writeFlagged x (subFlagged (s.reg x) (s.reg y)))

/-- 8xy6 (R149): V[y] is not read. -/
def execShr (x : RegIdx) (s : State) : Host.Outcome State Fault Refusal := .next (s.writeFlagged x (shrFlagged (s.reg x)))

/-- 8xy7 (R150): V[y] minus V[x]. -/
def execSubnReg (x y : RegIdx) (s : State) : Host.Outcome State Fault Refusal :=
  .next (s.writeFlagged x (subFlagged (s.reg y) (s.reg x)))

/-- 8xyE (R151): V[y] is not read. -/
def execShl (x : RegIdx) (s : State) : Host.Outcome State Fault Refusal := .next (s.writeFlagged x (shlFlagged (s.reg x)))

/-- Cxkk (R152). -/
def execRnd (x : RegIdx) (kk : Byte) (s : State) : Host.Outcome State Fault Refusal := .next (s.setReg x (s.rnd &&& kk))

end Sys2Proof.Machine
end

