-- ==== Sys2Proof/Machine/ControlFlow.lean ====
section
/-! DEFINITION. Jumps, calls, returns, skips and the no-op handler (41_control_flow.md R120 to R129; 40_cycle.md R108). A meaning starts from the state after the fetch, so that `pc` is `ipc + 2` (R13). -/

namespace Sys2Proof.Machine

/-- 00EE (R121). -/
def execRet (s : State) : Host.Outcome State Fault Refusal :=
  .next (s.settle (match s.pop with
    | .error e => .error e
    | .ok (a, t) => .ok (t.setPc a)))

/-- 1nnn (R122). -/
def execJp (nnn : Addr12) (s : State) : Host.Outcome State Fault Refusal := .next (s.setPc (zext12 nnn))

/-- 2nnn (R123): the pushed value is `pc` after the advance. -/
def execCall (nnn : Addr12) (s : State) : Host.Outcome State Fault Refusal :=
  .next (s.settle (match s.push s.pc with
    | .error e => .error e
    | .ok t => .ok (t.setPc (zext12 nnn))))

/-- 3xkk (R124). -/
def execSeImm (x : RegIdx) (kk : Byte) (s : State) : Host.Outcome State Fault Refusal := .next (s.skipIf (s.reg x == kk))

/-- 4xkk (R125). -/
def execSneImm (x : RegIdx) (kk : Byte) (s : State) : Host.Outcome State Fault Refusal := .next (s.skipIf (s.reg x != kk))

/-- 5xyN (R126). -/
def execSeReg (x y : RegIdx) (s : State) : Host.Outcome State Fault Refusal := .next (s.skipIf (s.reg x == s.reg y))

/-- 9xyN (R127). -/
def execSneReg (x y : RegIdx) (s : State) : Host.Outcome State Fault Refusal := .next (s.skipIf (s.reg x != s.reg y))

/-- Bnnn (R128): always V[0], the sum mod 2^16. -/
def execJpV0 (nnn : Addr12) (s : State) : Host.Outcome State Fault Refusal :=
  .next (s.setPc (zext8 (s.reg 0) + zext12 nnn))

/-- The no-op handler (R108): nothing. The advance, the countdown and the outputs are the step's. -/
def execNop (s : State) : Host.Outcome State Fault Refusal := .next s

end Sys2Proof.Machine
end

