-- ==== Sys2Proof/Machine/Display.lean ====
section
/-! DEFINITION. Framebuffer clear, sprite draw and collision detection (44_display.md R190 to R195). A meaning starts from the state after the fetch (R13). -/

namespace Sys2Proof.Machine

/-- 00E0 (R190). -/
def execCls (s : State) : Host.Outcome State Fault Refusal := .next s.clearFb

/-- One set sprite bit at row `r`, column `c`: clipped or a fault outside the framebuffer (R193), else the collision test on
the pixel before its toggle (R192) and the toggle (R191). -/
def drawBit (s : State) (r c : Nat) : Except Raise State :=
  if s.cfg.fbH ≤ r ∨ s.cfg.fbW ≤ c then
    match s.cfg.spriteEdge with
    | .fault => .error ⟨.spriteEdge, r * 256 + c⟩
    | .clip => .ok s
  else .ok ((if s.pixel r c then s.setReg vf 1 else s).togglePixel r c)

/-- The bits of one sprite byte, the given columns in order, bit 7 the leftmost (R191). -/
def drawByte (r xs : Nat) (b : Byte) : List Nat → State → Except Raise State
  | [], s => .ok s
  | col :: cols, s =>
    if b.getLsbD (7 - col) then
      match drawBit s r (xs + col) with
      | .error e => .error e
      | .ok t => drawByte r xs b cols t
    else drawByte r xs b cols s

/-- The columns of a sprite byte, most-significant bit first. -/
def spriteCols : List Nat := [0, 1, 2, 3, 4, 5, 6, 7]

/-- The given rows of a sprite in order: each row's byte is read, and bounds-checked, before its bits are drawn (R237, D29). -/
def drawRows (ys xs : Nat) : List Nat → State → Except Raise State
  | [], s => .ok s
  | row :: rows, s =>
    match s.memRead .readOob (s.effAddr row) with
    | .error e => .error e
    | .ok b =>
      match drawByte (ys + row) xs b spriteCols s with
      | .error e => .error e
      | .ok t => drawRows ys xs rows t

/-- The start row of a draw, `V[y] mod FB_H` (R191). -/
def State.startRow (s : State) (y : RegIdx) : Nat := (s.reg y).toNat % s.cfg.fbH

/-- The start column of a draw, `V[x] mod FB_W` (R191). -/
def State.startCol (s : State) (x : RegIdx) : Nat := (s.reg x).toNat % s.cfg.fbW

/-- Dxyn (R191): the coordinates are read before VF is cleared. -/
def execDrw (x y : RegIdx) (n : Fin 16) (s : State) : Host.Outcome State Fault Refusal :=
  .next (s.settle (drawRows (s.startRow y) (s.startCol x) (List.range n.val) (s.setReg vf 0)))

end Sys2Proof.Machine
end

