-- ==== Sys2Proof/Machine/IndexMemory.lean ====
section
/-! DEFINITION. The index register and the memory transfers (43_index_memory.md R170 to R175). A meaning starts from the state after the fetch (R13). -/

namespace Sys2Proof.Machine

/-- Annn (R170). -/
def execLdI (nnn : Addr12) (s : State) : Host.Outcome State Fault Refusal := .next (s.setIndex (zext12 nnn))

/-- Fx1E (R171): mod 2^16, no flag. -/
def execAddI (x : RegIdx) (s : State) : Host.Outcome State Fault Refusal := .next (s.setIndex (s.index + zext8 (s.reg x)))

/-- The address of a digit's glyph, V[x] whole (R172, D8). -/
def fontAddr (c : Config) (digit : Byte) : Word := BitVec.ofNat 16 (c.fontAddrBase + 5 * digit.toNat)

/-- Fx29 (R172). -/
def execLdFont (x : RegIdx) (s : State) : Host.Outcome State Fault Refusal := .next (s.setIndex (fontAddr s.cfg (s.reg x)))

/-- The three decimal digits of a byte, the hundreds first (R173). -/
def bcdDigits (v : Byte) : List Byte :=
  [BitVec.ofNat 8 (v.toNat / 100), BitVec.ofNat 8 (v.toNat / 10 % 10), BitVec.ofNat 8 (v.toNat % 10)]

/-- Fx33 (R173): all three bytes or none. -/
def execBcd (x : RegIdx) (s : State) : Host.Outcome State Fault Refusal :=
  .next (s.settle (s.writeBytes (s.effAddr 0) (bcdDigits (s.reg x))))

/-- Fx55 (R174): V[0..x], all or none. -/
def execStoreRegs (x : RegIdx) (s : State) : Host.Outcome State Fault Refusal :=
  .next (s.settle (s.writeBytes (s.effAddr 0) (s.regsUpTo x)))

/-- Fx65 (R175): V[0..x], all or none. -/
def execLoadRegs (x : RegIdx) (s : State) : Host.Outcome State Fault Refusal :=
  .next (s.settle (match s.readBytes (s.effAddr 0) (x.val + 1) with
    | .error e => .error e
    | .ok bs => .ok (s.setRegs bs)))

end Sys2Proof.Machine
end

