-- ==== Sys2Proof/Machine/TimersInput.lean ====
section
/-! DEFINITION. Timer access and key input (45_timers_input.md R210 to R215). A meaning starts from the state after the fetch (R13); the countdown comes after it (R105). -/

namespace Sys2Proof.Machine

/-- Fx07 (R210): DT before this step's countdown. -/
def execLdVxDt (x : RegIdx) (s : State) : Host.Outcome State Fault Refusal := .next (s.setReg x s.dt)

/-- Fx15 (R211). -/
def execLdDtVx (x : RegIdx) (s : State) : Host.Outcome State Fault Refusal := .next (s.setDt (s.reg x))

/-- Fx18 (R212). -/
def execLdStVx (x : RegIdx) (s : State) : Host.Outcome State Fault Refusal := .next (s.setSt (s.reg x))

/-- Ex9E (R213). -/
def execSkp (x : RegIdx) (s : State) : Host.Outcome State Fault Refusal :=
  .next (s.settle (match s.keyNumber x with
    | .error e => .error e
    | .ok k => .ok (s.skipIf (s.keys.getLsbD k))))

/-- ExA1 (R214). -/
def execSknp (x : RegIdx) (s : State) : Host.Outcome State Fault Refusal :=
  .next (s.settle (match s.keyNumber x with
    | .error e => .error e
    | .ok k => .ok (s.skipIf (!s.keys.getLsbD k))))

/-- Fx0A (R215): with no key pressed `pc` goes back to `ipc`; else V[x] gets the first pressed key's number. -/
def execLdKey (x : RegIdx) (s : State) : Host.Outcome State Fault Refusal :=
  .next (match firstPressed s.keys with
    | none => s.setPc (s.pc - 2)
    | some k => s.setReg x (BitVec.ofNat 8 k))

end Sys2Proof.Machine
end

