-- ==== Sys2Proof/Machine/Step.lean ====
section
/-! DEFINITION. The STEP request (40_cycle.md R100), and the placing of an instruction where a step fetches it. -/

namespace Sys2Proof.Machine

/-- One STEP request (R100): nothing on a faulted block (R101); else fetch, advance, decode, execute, countdown, outputs. -/
def step (s : State) : Host.Outcome State Fault Refusal :=
  match s.status with
  | .faulted => .next s
  | .running =>
    match s.fetch with
    | .error e => .next (s.fetchFault e).nextInput
    | .ok w =>
      match exec (decodeWord w) (s.afterFetch w) with
      | .next t => .next (t.finish (decodeWord w))
      | .fault f => .fault f
      | .refused r => .refused r

/-- `s` with the instruction whose bits are `w` stored at `pc`, high byte first: the next step of a running block fetches it
(R102). This stands for the program's load from outside (R265, log 10). -/
def State.withFetchWord (s : State) (nbits w : Nat) : State := s.pokeWord s.pc.toNat (tableWord nbits w)

end Sys2Proof.Machine
end

