-- ==== Sys2Proof/Machine/Ports.lean ====
section
/-! DEFINITION. The block's boundary (10_state.md R50 to R58; 70_reset_and_hazards.md R260 to R268): reset, the loader, the framebuffer port, the outputs. -/

namespace Sys2Proof.Machine

/-- The state after reset under given arguments, if they meet the constraints of R6. -/
def State.construct (c : Config) : Option State := if c.wf then some (State.resetWith c) else none

/-- The RESET request (R260), in any state; the inputs the host goes on to present are the host's (log 3). -/
def State.resetRequest (s : State) : State := { State.resetWith s.cfg with inputs := s.inputs, tick := s.tick }

/-- One cycle of the loader port (R55). -/
def State.loaderWrite (s : State) (addr : Word) (data : Byte) (we : Bool) : State :=
  if we = true ∧ s.started = false ∧ s.status = .running ∧ addr.toNat < s.cfg.memSize then s.setByte addr.toNat data else s

/-- What `Load` answers (R265). -/
inductive LoadResult where
  | ok
  | refusedStarted
  | refusedTooBig
deriving DecidableEq, Repr

/-- `Load(P)` (R265, R267). -/
def State.load (s : State) (p : List Byte) : LoadResult × State :=
  if s.started = true ∨ s.status = .faulted then (.refusedStarted, s)
  else if s.cfg.memSize - s.cfg.entry < p.length then (.refusedTooBig, s)
  else (.ok, s.setBytes s.cfg.entry p)

/-- A pixel as the host's word: all bits set or all bits clear (R39). -/
def pixelWord (bits : Nat) (on : Bool) : BitVec bits := if on then BitVec.allOnes bits else 0

/-- The framebuffer read port (R56): a word for every pixel in range. -/
def State.fbPort (s : State) (r c : Nat) : Option (BitVec s.cfg.pixelBits) :=
  if r < s.cfg.fbH ∧ c < s.cfg.fbW then some (pixelWord s.cfg.pixelBits (s.pixel r c)) else none

/-- FAULT_CAUSE as its 4-bit field (R45, R231). -/
def State.faultCode (s : State) : BitVec 4 :=
  match s.faultCause with
  | none => 0
  | some f => f.code

/-- STATUS as its bit (R44). -/
def State.statusBit (s : State) : BitVec 1 :=
  match s.status with
  | .running => 0
  | .faulted => 1

/-- SP as its 5-bit field (R33, R48). -/
def State.spField (s : State) : BitVec 5 := BitVec.ofNat 5 s.sp.val

/-- The outputs of the block but for the framebuffer port and the debug view (R51). -/
structure Outputs where
  status : BitVec 1
  faultCause : BitVec 4
  faultPc : Word
  faultInfo : BitVec 17
  fbDirty : Bool
  diagUnknown : Bool
  diagWord : Word
  fbW : Nat
  fbH : Nat
  keyCount : Nat
deriving DecidableEq, Repr

/-- The outputs as the host reads them between requests (R51). -/
def State.outputs (s : State) : Outputs where
  status := s.statusBit
  faultCause := s.faultCode
  faultPc := s.faultPc
  faultInfo := s.faultInfo
  fbDirty := s.fbDirty
  diagUnknown := s.diagUnknown
  diagWord := s.diagWord
  fbW := s.cfg.fbW
  fbH := s.cfg.fbH
  keyCount := Config.keyCount

/-- The requests that can change the block (R50), which the host serialises (R52). -/
inductive Request where
  | reset
  | step
  | loaderWrite (addr : Word) (data : Byte) (we : Bool)
  | load (p : List Byte)
deriving DecidableEq, Repr

/-- One request served (R52). -/
def serve (s : State) : Request → Host.Outcome State Fault Refusal
  | .reset => .next s.resetRequest
  | .step => step s
  | .loaderWrite addr data we => .next (s.loaderWrite addr data we)
  | .load p => .next (s.load p).2

end Sys2Proof.Machine
end

