-- ==== Sys2Proof/Safety.lean ====
section
/-! DEFINITION. What claims speak of: the parts of the state and frames over them, the invariant of every machine that RESET starts, and a safe run. -/

namespace Sys2Proof.Machine

/-- The parts of the state beside the general registers, as frames name them. -/
inductive Part where
  | pc
  | index
  /-- SP and every slot. -/
  | callStack
  | dt
  | st
  /-- Every pixel. -/
  | framebuffer
  /-- Every byte. -/
  | memory
  /-- STATUS and the fault record (R44, R45). -/
  | faultRecord
  | started
  /-- FB_DIRTY, DIAG_UNKNOWN and DIAG_WORD (R47). -/
  | stepOutputs
  /-- The model's parameters. -/
  | config
  /-- The model's inputs and their counter. -/
  | stepInputs
deriving DecidableEq, Repr

/-- A part holds the same in two states: memory byte by byte, the framebuffer pixel by pixel. -/
def Part.same (p : Part) (s t : State) : Prop :=
  match p with
  | .pc => t.pc = s.pc
  | .index => t.index = s.index
  | .callStack => t.sp = s.sp ∧ t.stack = s.stack
  | .dt => t.dt = s.dt
  | .st => t.st = s.st
  | .framebuffer => t.fb.length = s.fb.length ∧ ∀ r c, t.pixel r c = s.pixel r c
  | .memory => ∀ a, t.byteAt a = s.byteAt a
  | .faultRecord =>
    t.status = s.status ∧ t.faultCause = s.faultCause ∧ t.faultPc = s.faultPc ∧ t.faultInfo = s.faultInfo
  | .started => t.started = s.started
  | .stepOutputs => t.fbDirty = s.fbDirty ∧ t.diagUnknown = s.diagUnknown ∧ t.diagWord = s.diagWord
  | .config => t.cfg = s.cfg
  | .stepInputs => t.inputs = s.inputs ∧ t.tick = s.tick

/-- From `s` to `t` only the named registers and the named parts may change. -/
def Frame (regs : List RegIdx) (parts : List Part) (s t : State) : Prop :=
  (∀ j, j ∉ regs → t.reg j = s.reg j) ∧ ∀ p, p ∉ parts → p.same s t

/-- `raise Fault(cause, info)` taken by a handler that started in `s` (R232): STATUS and the record are written, `pc` is
the word's own address again, FB_DIRTY and DIAG_UNKNOWN are 0, and nothing else changes. -/
def Faults (cause : Fault) (info : Nat) (s t : State) : Prop :=
  t.status = .faulted ∧ t.faultCause = some cause ∧ t.faultPc = s.pc - 2 ∧ t.faultInfo = BitVec.ofNat 17 info ∧
    t.pc = s.pc - 2 ∧ t.fbDirty = false ∧ t.diagUnknown = false ∧ t.diagWord = s.diagWord ∧
    Frame [] [.pc, .faultRecord, .stepOutputs] s t

/-- The step's own fault, seen from the state `s` before the step (R232): as `Faults`, with STARTED set, the word's address in
FAULT_PC and `pc`, the given DIAG_WORD, and one of the model's inputs used up. -/
def StepFaults (cause : Fault) (info : Nat) (diag : Word) (s t : State) : Prop :=
  t.status = .faulted ∧ t.faultCause = some cause ∧ t.faultPc = s.pc ∧ t.faultInfo = BitVec.ofNat 17 info ∧
    t.started = true ∧ t.fbDirty = false ∧ t.diagUnknown = false ∧ t.diagWord = diag ∧
    Frame [] [.faultRecord, .started, .stepOutputs, .stepInputs] s t

/-- The sprite of `Dxyn` has a set bit over row `r`, column `c`, on the screen or off it (R191): the row is one of the `n` from
V[y] mod FB_H down, the column one of the eight from V[x] mod FB_W right, and the bit is bit 7 for the leftmost. -/
def State.spriteBit (s : State) (x y : RegIdx) (n r c : Nat) : Bool :=
  let ys := (s.reg y).toNat % s.cfg.fbH
  let xs := (s.reg x).toNat % s.cfg.fbW
  decide (ys ≤ r ∧ r < ys + n ∧ xs ≤ c ∧ c < xs + 8) &&
    (s.byteAt (s.index.toNat + (r - ys))).getLsbD (7 - (c - xs))

/-- A position of the framebuffer (R38). -/
def State.onScreen (s : State) (r c : Nat) : Prop := r < s.cfg.fbH ∧ c < s.cfg.fbW

/-- The fault record agrees with STATUS (R44, R45, R231 to R236): a running block has none; a faulted one has a cause, its
`pc` is FAULT_PC, and it has started. -/
abbrev State.recordOk (s : State) : Prop :=
  (s.status = .running → s.faultCause = none ∧ s.faultPc = 0 ∧ s.faultInfo = 0) ∧
  (s.status = .faulted →
    s.faultCause ≠ none ∧ s.faultPc = s.pc ∧ s.fbDirty = false ∧ s.diagUnknown = false ∧ s.started = true)

/-- Before the first step only memory differs from the state after reset (R46, R265, R269). -/
abbrev State.freshOk (s : State) : Prop :=
  s.started = false →
    s = { State.resetWith s.cfg with mem := s.mem, inputs := s.inputs, tick := s.tick }

/-- The invariant: the parameters meet their constraints (R6), memory is in its canonical form, the framebuffer has FB_H times
FB_W pixels (R38), the fault record agrees with STATUS, and a block that has not started is as reset and the loader left it. -/
abbrev State.Inv (s : State) : Prop :=
  s.cfg.wf ∧ Memory.wf s.cfg s.mem ∧ s.fb.length = s.cfg.fbH * s.cfg.fbW ∧ s.recordOk ∧ s.freshOk

/-- The word at `pc`, high byte first (R102), wherever the bytes are in memory. -/
def State.wordAtPc (s : State) : Word := s.byteAt s.pc.toNat ++ s.byteAt (s.pc.toNat + 1)

/-- KEYS is what the host presents with the coming STEP request (R41, R53): the keys of the input at the head of the queue,
or, where the queue is empty, the free value of this step (log 3). -/
def State.presentsKeys (s : State) (keys : BitVec 16) : Prop :=
  (∃ i l, s.inputs = i :: l ∧ keys = i.keys) ∨ (s.inputs = [] ∧ keys = Config.freeKeys s.tick)

/-- `pc` after a completed step that began in `s` with these KEYS (R26): `ipc` is `s.pc`. -/
def pcAfter (s : State) (keys : BitVec 16) : Instr → Word
  | .jp nnn | .call nnn => nnn.setWidth 16
  | .jpV0 nnn => BitVec.ofNat 16 ((s.reg 0).toNat + nnn.toNat)
  | .ret => s.stack.toList.getD (s.sp.val - 1) 0
  | .ldKey _ => if keys = 0 then s.pc else s.pc + 2
  | .seImm x kk => if s.reg x = kk then s.pc + 4 else s.pc + 2
  | .sneImm x kk => if s.reg x ≠ kk then s.pc + 4 else s.pc + 2
  | .seReg x y _ => if s.reg x = s.reg y then s.pc + 4 else s.pc + 2
  | .sneReg x y _ => if s.reg x ≠ s.reg y then s.pc + 4 else s.pc + 2
  | .skp x => if keys.getLsbD (s.reg x).toNat = true then s.pc + 4 else s.pc + 2
  | .sknp x => if keys.getLsbD (s.reg x).toNat = false then s.pc + 4 else s.pc + 2
  | .cls | .ldImm _ _ | .addImm _ _ | .ldReg _ _ | .orReg _ _ | .andReg _ _ | .xorReg _ _ | .addReg _ _ | .subReg _ _
  | .shr _ _ | .subnReg _ _ | .shl _ _ | .ldI _ | .rnd _ _ | .drw _ _ _ | .ldVxDt _ | .ldDtVx _ | .ldStVx _ | .addI _
  | .ldFont _ | .bcd _ | .storeRegs _ | .loadRegs _ | .nop _ => s.pc + 2

/-- The parts an instruction may write when it completes (R26, R30, R32, R35, R38, R43): every instruction may leave `pc`
elsewhere; a step's own writes (STARTED, the outputs, the countdown) come beside these. -/
def writtenParts : Instr → List Part
  | .cls | .drw _ _ _ => [.framebuffer]
  | .call _ | .ret => [.pc, .callStack]
  | .ldI _ | .addI _ | .ldFont _ => [.index]
  | .ldDtVx _ => [.dt]
  | .ldStVx _ => [.st]
  | .bcd _ | .storeRegs _ => [.memory]
  | .jp _ | .jpV0 _ | .seImm _ _ | .sneImm _ _ | .seReg _ _ _ | .sneReg _ _ _ | .skp _ | .sknp _ | .ldKey _ => [.pc]
  | .ldImm _ _ | .addImm _ _ | .ldReg _ _ | .orReg _ _ | .andReg _ _ | .xorReg _ _ | .addReg _ _ | .subReg _ _
  | .shr _ _ | .subnReg _ _ | .shl _ _ | .rnd _ _ | .ldVxDt _ | .loadRegs _ | .nop _ => []

/-- The registers an instruction may write (R21, R23): its destination, and VF where it writes a flag. -/
def writtenRegs : Instr → List RegIdx
  | .ldImm x _ | .addImm x _ | .ldReg x _ | .orReg x _ | .andReg x _ | .xorReg x _ | .rnd x _ | .ldVxDt x | .ldKey x => [x]
  | .addReg x _ | .subReg x _ | .shr x _ | .subnReg x _ | .shl x _ => [vf, x]
  | .drw _ _ _ => [vf]
  | .loadRegs x => (List.finRange 16).filter (fun j => j ≤ x)
  | .cls | .ret | .jp _ | .call _ | .seImm _ _ | .sneImm _ _ | .seReg _ _ _ | .sneReg _ _ _ | .ldI _ | .jpV0 _ | .skp _
  | .sknp _ | .ldDtVx _ | .ldStVx _ | .addI _ | .ldFont _ | .bcd _ | .storeRegs _ | .nop _ => []

/-- `n` STEP requests in a row (R52). -/
def stepsFrom : Nat → State → Host.Outcome State Fault Refusal
  | 0, s => .next s
  | n + 1, s =>
    match step s with
    | .next t => stepsFrom n t
    | .fault f => .fault f
    | .refused r => .refused r

/-- A run of `n` steps that no fault ended: the block is still running after it. -/
def SafeRun (n : Nat) (s : State) : Prop :=
  ∃ t, stepsFrom n s = .next t ∧ t.status = .running

end Sys2Proof.Machine
end

