-- ==== Sys2Proof/Certificates/Slice0/Obligations.lean ====
section
/-! DEFINITION. The statements about the model. An `exec` statement speaks of the state `s` after the fetch, whose `pc` is `ipc + 2` (00_scope.md R13); a `step` statement speaks of the state before the step. -/

open Sys2Proof Sys2Proof.Machine

/-! ### Encoding and decode -/

/-- The encoder's word decodes to the instruction it came from, every operand at every value (30_encoding.md R82, R93). -/
def Obligations.DecodeInvertsEncode : Prop :=
  ∀ i : Instr, i.wf = true → decodeWord (encode i) = i

/-- Each of the 65536 words is exactly one instruction (R92, R96, which the spec marks derived): decoding gives a well-formed
one, that one encodes to the word, and no other well-formed one does. -/
def Obligations.EveryWordIsOneInstruction : Prop :=
  ∀ w : Word, (decodeWord w).wf = true ∧ encode (decodeWord w) = w ∧
    ∀ i : Instr, i.wf = true → encode i = w → i = decodeWord w

/-- R93's table: a word decodes to row `k` exactly when `w AND mask = match` for it, and to the default row exactly when no
row is selected. Rows 7, 10 to 13 and 19 rest on decision D17 and on general knowledge (R87; log 5). -/
def Obligations.WordSelectsItsTableRow : Prop :=
  ∀ w : Word, (∀ r ∈ opcodeRows, (w &&& r.mask = r.pattern ↔ (decodeWord w).row = r.number)) ∧
    ((decodeWord w).row = 35 ↔ ∀ r ∈ opcodeRows, w &&& r.mask ≠ r.pattern)

/-- The no-op space by class (R91, whose list the spec derives), and the number of its words in each of the four classes. -/
def Obligations.NoOpSpaceIsExact : Prop :=
  (∀ w : Word, (∃ v, decodeWord w = .nop v) ↔
    ((w.extractLsb' 12 4 = 0x0 ∧ w ≠ 0x00E0 ∧ w ≠ 0x00EE) ∨
     (w.extractLsb' 12 4 = 0x8 ∧ w.extractLsb' 0 4 ∈ ([0x8, 0x9, 0xA, 0xB, 0xC, 0xD, 0xF] : List Nibble)) ∨
     (w.extractLsb' 12 4 = 0xE ∧ w.extractLsb' 0 8 ∉ ([0x9E, 0xA1] : List Byte)) ∨
     (w.extractLsb' 12 4 = 0xF ∧
       w.extractLsb' 0 8 ∉ ([0x07, 0x0A, 0x15, 0x18, 0x1E, 0x29, 0x33, 0x55, 0x65] : List Byte)))) ∧
  (∀ w v : Word, decodeWord w = .nop v → v = w) ∧
  (List.range 4096).countP (fun k => isUnknown (decodeWord (BitVec.ofNat 16 (0x0000 + k)))) = 4094 ∧
  (List.range 4096).countP (fun k => isUnknown (decodeWord (BitVec.ofNat 16 (0x8000 + k)))) = 1792 ∧
  (List.range 4096).countP (fun k => isUnknown (decodeWord (BitVec.ofNat 16 (0xE000 + k)))) = 4064 ∧
  (List.range 4096).countP (fun k => isUnknown (decodeWord (BitVec.ofNat 16 (0xF000 + k)))) = 3952

/-- R88 and R89: classes 0xE and 0xF resolve by the trailing byte, and every other byte is the no-op. -/
def Obligations.FamilyByteSelectors : Prop :=
  ∀ w : Word,
    (w.extractLsb' 12 4 = 0xE →
      (w.extractLsb' 0 8 = 0x9E → decodeWord w = .skp (fieldX w)) ∧
      (w.extractLsb' 0 8 = 0xA1 → decodeWord w = .sknp (fieldX w)) ∧
      (w.extractLsb' 0 8 ∉ ([0x9E, 0xA1] : List Byte) → decodeWord w = .nop w)) ∧
    (w.extractLsb' 12 4 = 0xF →
      (w.extractLsb' 0 8 = 0x07 → decodeWord w = .ldVxDt (fieldX w)) ∧
      (w.extractLsb' 0 8 = 0x0A → decodeWord w = .ldKey (fieldX w)) ∧
      (w.extractLsb' 0 8 = 0x15 → decodeWord w = .ldDtVx (fieldX w)) ∧
      (w.extractLsb' 0 8 = 0x18 → decodeWord w = .ldStVx (fieldX w)) ∧
      (w.extractLsb' 0 8 = 0x1E → decodeWord w = .addI (fieldX w)) ∧
      (w.extractLsb' 0 8 = 0x29 → decodeWord w = .ldFont (fieldX w)) ∧
      (w.extractLsb' 0 8 = 0x33 → decodeWord w = .bcd (fieldX w)) ∧
      (w.extractLsb' 0 8 = 0x55 → decodeWord w = .storeRegs (fieldX w)) ∧
      (w.extractLsb' 0 8 = 0x65 → decodeWord w = .loadRegs (fieldX w)) ∧
      (w.extractLsb' 0 8 ∉ ([0x07, 0x0A, 0x15, 0x18, 0x1E, 0x29, 0x33, 0x55, 0x65] : List Byte) → decodeWord w = .nop w))

/-- A few words decode to the instructions the spec's examples name (41 to 45, 95_test_vectors.md). -/
def Obligations.SampleWordsDecode : Prop :=
  decodeWord 0x00E0 = .cls ∧ decodeWord 0x00EE = .ret ∧ decodeWord 0x1ABC = .jp 0xABC ∧ decodeWord 0x2210 = .call 0x210 ∧
  decodeWord 0x4211 = .sneImm 2 0x11 ∧ decodeWord 0x5347 = .seReg 3 4 7 ∧ decodeWord 0x7003 = .addImm 0 3 ∧
  decodeWord 0x8376 = .shr 3 7 ∧ decodeWord 0x8128 = .nop 0x8128 ∧ decodeWord 0xA300 = .ldI 0x300 ∧
  decodeWord 0xC40F = .rnd 4 0x0F ∧ decodeWord 0xD125 = .drw 1 2 5 ∧ decodeWord 0xE5A1 = .sknp 5 ∧
  decodeWord 0xFB0A = .ldKey 0xB ∧ decodeWord 0xF255 = .storeRegs 2 ∧ decodeWord 0x05E0 = .nop 0x05E0

/-- R80 and R81: an instruction is two bytes, the first one the high byte, both in a byte sequence and as the fetch reads them
from memory; the encoder's bytes decode back. -/
def Obligations.TwoBytesAreOneInstruction : Prop :=
  (∀ (hi lo : Byte) (rest : List Byte), decodeBytes (hi :: lo :: rest) = .ok (decodeWord (hi ++ lo), rest)) ∧
  (∀ (i : Instr) (rest : List Byte), i.wf = true → decodeBytes (encodeBytes i ++ rest) = .ok (i, rest)) ∧
  (∀ s : State, s.pc.toNat + 1 < s.cfg.memSize → s.fetch = .ok (s.byteAt s.pc.toNat ++ s.byteAt (s.pc.toNat + 1)))

/-! ### The step -/

/-- R100 for a running block whose word is in memory: the step is `exec` of the decoded instruction on the state with STARTED
and DIAG_WORD set and `pc` past the word; then the countdown and the outputs, unless the handler raised a fault; the model's
inputs move on (logs 3, 7). R100 carries decisions D11 and D21. -/
def Obligations.StepRunsTheDecodedInstruction : Prop :=
  ∀ (s u : State) (w : Word), s.status = .running → s.pc.toNat + 1 < s.cfg.memSize →
    w = s.byteAt s.pc.toNat ++ s.byteAt (s.pc.toNat + 1) →
    exec (decodeWord w) { s with started := true, diagWord := w, pc := s.pc + 2 } = .next u →
    (u.status = .running → step s = .next
      { u with
        dt := if u.dt = 0 then 0 else u.dt - 1
        st := if u.st = 0 then 0 else u.st - 1
        fbDirty := draws (decodeWord w)
        diagUnknown := isUnknown (decodeWord w)
        inputs := u.inputs.tail
        tick := u.tick + 1 }) ∧
    (u.status = .faulted → step s = .next { u with inputs := u.inputs.tail, tick := u.tick + 1 })

/-- R101, R235 (decisions D1, D20): a faulted block ignores STEP and the loader, RESET makes it run again with an empty record,
and a block found running after `n` steps was running all the way. -/
def Obligations.FaultedBlockWaitsForReset : Prop :=
  (∀ s : State, s.status = .faulted →
    step s = .next s ∧ (∀ addr data we, s.loaderWrite addr data we = s) ∧ (∀ p, s.load p = (.refusedStarted, s)) ∧
    ∃ t, serve s .reset = .next t ∧ t.status = .running ∧ t.faultCause = none ∧ t.faultPc = 0 ∧ t.faultInfo = 0) ∧
  (∀ (n m : Nat) (s : State), m ≤ n → SafeRun n s → SafeRun m s)

/-- R102, R233 (decision D2): a fetch whose first or second byte is not in memory raises FETCH_OOB with the first such address,
DIAG_WORD is 0, and nothing else happens in the step. -/
def Obligations.FetchBeyondMemoryFaults : Prop :=
  ∀ s : State, s.status = .running → s.cfg.memSize ≤ s.pc.toNat + 1 →
    ∃ t, step s = .next t ∧
      StepFaults .fetchOob (if s.cfg.memSize ≤ s.pc.toNat then s.pc.toNat else s.pc.toNat + 1) 0 s t

/-- R105: both timers count down once, after the handler, on the values it left. -/
def Obligations.TimersCountDownAfterHandler : Prop :=
  ∀ s t : State, s.status = .running → step s = .next t → t.status = .running →
    ∃ u, exec (decodeWord s.wordAtPc) (s.afterFetch s.wordAtPc) = .next u ∧
      t.dt.toNat = u.dt.toNat - 1 ∧ t.st.toNat = u.st.toNat - 1 ∧
      u.dt = (match decodeWord s.wordAtPc with | .ldDtVx x => s.reg x | _ => s.dt) ∧
      u.st = (match decodeWord s.wordAtPc with | .ldStVx x => s.reg x | _ => s.st)

/-- R47, R110 (decision D22): after a completed step FB_DIRTY says that the word was CLS or DRW, DIAG_UNKNOWN that it was the
no-op, and DIAG_WORD is the word. -/
def Obligations.StepOutputsReportTheStep : Prop :=
  ∀ s t : State, s.status = .running → step s = .next t → t.status = .running →
    t.diagWord = s.wordAtPc ∧
    (t.fbDirty = true ↔ s.wordAtPc = 0x00E0 ∨ s.wordAtPc.extractLsb' 12 4 = 0xD) ∧
    (t.diagUnknown = true ↔ inNoOpSpace s.wordAtPc = true)

/-- R232 (decisions D1, D18, D19): whatever faults, the step's fault is precise: registers, `I`, `pc`, stack, timers, memory and
framebuffer are as before the step, FAULT_PC is `pc`, and DIAG_WORD is the word, or 0 when the fetch did not complete. -/
def Obligations.StepFaultIsPrecise : Prop :=
  ∀ s t : State, s.status = .running → step s = .next t → t.status = .faulted →
    ∃ cause info, StepFaults cause info (if s.pc.toNat + 1 < s.cfg.memSize then s.wordAtPc else 0) s t

/-- R231 with R233 (decisions D1 to D5, D12, D25): a handler that faults is one of the seven listed, under its condition, with
the listed FAULT_INFO; no other instruction and no other condition faults. -/
def Obligations.OnlyListedConditionsFault : Prop :=
  ∀ (i : Instr) (s t : State), s.status = .running → exec i s = .next t → t.status = .faulted →
    (i = .ret ∧ s.sp.val = 0 ∧ Faults .stackUnderflow 0 s t) ∨
    (∃ nnn, i = .call nnn ∧ s.sp.val = 16 ∧ Faults .stackOverflow 16 s t) ∨
    (∃ x, (i = .skp x ∨ i = .sknp x) ∧ 16 ≤ (s.reg x).toNat ∧ Faults .keyOob (s.reg x).toNat s t) ∨
    (∃ x y n row, i = .drw x y n ∧ row < n.val ∧ s.cfg.memSize ≤ s.index.toNat + row ∧
      Faults .readOob (s.index.toNat + row) s t) ∨
    (∃ x y n r c, i = .drw x y n ∧ s.cfg.spriteEdge = .fault ∧ s.spriteBit x y n.val r c = true ∧ ¬ s.onScreen r c ∧
      Faults .spriteEdge (r * 256 + c) s t) ∨
    (∃ x, i = .loadRegs x ∧ s.cfg.memSize ≤ s.index.toNat + x.val ∧
      Faults .readOob (max s.index.toNat s.cfg.memSize) s t) ∨
    (∃ x len, ((i = .bcd x ∧ len = 3) ∨ (i = .storeRegs x ∧ len = x.val + 1)) ∧
      ((s.cfg.memSize < s.index.toNat + len ∧ Faults .writeOob (max s.index.toNat s.cfg.memSize) s t) ∨
       (s.cfg.reservedWrite = .fault ∧ s.index.toNat ≤ 0x1FF ∧ Faults .reservedWrite s.index.toNat s t)))

/-- R107, R277: every step ends and control returns: no state stops the machine. The model's own reading that a fault is a next
state is log 1. -/
def Obligations.EveryStepAnswersNext : Prop :=
  ∀ s : State, ∃ t, step s = .next t

/-! ### The invariant -/

/-- Every step keeps the invariant `State.Inv`, from every state that meets it. -/
def Obligations.StepKeepsInvariant : Prop :=
  ∀ s t : State, s.Inv → step s = .next t → t.Inv

/-- The state after reset meets the invariant, under the defaults and under all arguments the constraints of R6 admit. -/
def Obligations.ResetMeetsInvariant : Prop :=
  State.reset.Inv ∧ ∀ (c : Config) (s : State), State.construct c = some s → s.Inv

/-- Every other request keeps the invariant: reset, the loader port, and Load whether it is served or refused. -/
def Obligations.RequestsKeepInvariant : Prop :=
  ∀ s : State, s.Inv → s.resetRequest.Inv ∧ (∀ addr data we, (s.loaderWrite addr data we).Inv) ∧
    ∀ p : List Byte, (s.load p).2.Inv

/-! ### Reset, loader, ports -/

/-- R24, R29, R37, R261: after RESET, in any state, the registers and timers are 0, `pc` is ENTRY (0x200 by default), and memory
outside the font table reads 0. -/
def Obligations.ResetZeroesAndStartsAtEntry : Prop :=
  State.reset.pc = 0x200 ∧
  ∀ s : State, s.cfg.wf → ∃ t, serve s .reset = .next t ∧ (∀ j, t.reg j = 0) ∧ t.pc.toNat = s.cfg.entry ∧
    t.dt = 0 ∧ t.st = 0 ∧
    ∀ a, a < s.cfg.memSize → ¬ (s.cfg.fontBase ≤ a ∧ a < s.cfg.fontBase + 80) → t.byteAt a = 0

/-- The rest of R260's table (decisions D7, D14, D15, D22): `I`, the stack, the framebuffer, STATUS and the record, STARTED and
the outputs are 0, and glyph `d` of the font table stands at FONT_BASE + 5 d. -/
def Obligations.ResetLeavesDecidedValues : Prop :=
  ∀ s : State, s.cfg.wf → ∃ t, serve s .reset = .next t ∧ t.index = 0 ∧ t.sp.val = 0 ∧ (∀ j : Fin 16, t.stack.get j = 0) ∧
    t.fb.length = s.cfg.fbH * s.cfg.fbW ∧ (∀ r c, t.pixel r c = false) ∧
    t.status = .running ∧ t.faultCause = none ∧ t.faultPc = 0 ∧ t.faultInfo = 0 ∧ t.started = false ∧
    t.fbDirty = false ∧ t.diagUnknown = false ∧ t.diagWord = 0 ∧ t.cfg = s.cfg ∧
    ∀ d k : Nat, d < 16 → k < 5 → t.byteAt (s.cfg.fontBase + 5 * d + k) = s.cfg.fontData.getD (5 * d + k) 0

/-- R55 (decision D15): the loader port writes one byte before the first step of a running block, and is refused otherwise. -/
def Obligations.LoaderPortWritesBeforeStart : Prop :=
  ∀ (s : State) (addr : Word) (data : Byte) (we : Bool),
    ((we = true ∧ s.started = false ∧ s.status = .running ∧ addr.toNat < s.cfg.memSize) →
      (s.loaderWrite addr data we).byteAt addr.toNat = data ∧
      (∀ a, a ≠ addr.toNat → (s.loaderWrite addr data we).byteAt a = s.byteAt a) ∧
      Frame [] [.memory] s (s.loaderWrite addr data we)) ∧
    (¬ (we = true ∧ s.started = false ∧ s.status = .running ∧ addr.toNat < s.cfg.memSize) →
      s.loaderWrite addr data we = s)

/-- R265, R267 (decision D15): Load copies the bytes to ENTRY and up, or is refused whole when the block has started or
faulted, or when the program does not fit. -/
def Obligations.LoadCopiesOrRefuses : Prop :=
  ∀ (s : State) (p : List Byte),
    ((s.started = true ∨ s.status = .faulted) → s.load p = (.refusedStarted, s)) ∧
    ((s.started = false ∧ s.status = .running) → s.cfg.memSize - s.cfg.entry < p.length →
      s.load p = (.refusedTooBig, s)) ∧
    ((s.started = false ∧ s.status = .running) → p.length ≤ s.cfg.memSize - s.cfg.entry →
      ∃ t, s.load p = (.ok, t) ∧ (∀ k, k < p.length → t.byteAt (s.cfg.entry + k) = p.getD k 0) ∧
        (∀ a, ¬ (s.cfg.entry ≤ a ∧ a < s.cfg.entry + p.length) → t.byteAt a = s.byteAt a) ∧ Frame [] [.memory] s t)

/-- R39, R56 (decision D13 for the width): the port gives every pixel in range, word number `r * FB_W + c`, as all bits set or
all bits clear, and nothing out of range. -/
def Obligations.FramebufferPortWords : Prop :=
  ∀ (s : State) (r c : Nat), s.fb.length = s.cfg.fbH * s.cfg.fbW →
    ((r < s.cfg.fbH ∧ c < s.cfg.fbW) → ∃ b, s.fb[r * s.cfg.fbW + c]? = some b ∧
      s.fbPort r c = some (if b = true then BitVec.allOnes s.cfg.pixelBits else 0)) ∧
    (¬ (r < s.cfg.fbH ∧ c < s.cfg.fbW) → s.fbPort r c = none)

/-- R44, R45, R51, R231 (decisions D1, D25): what the host reads of the record and of the constants. -/
def Obligations.OutputsGiveRecordCodes : Prop :=
  ∀ s : State,
    (s.outputs.status = 0 ↔ s.status = .running) ∧ (s.outputs.status = 1 ↔ s.status = .faulted) ∧
    (∀ f, s.faultCause = some f → s.outputs.faultCause =
      match f with
      | .fetchOob => 1 | .readOob => 2 | .writeOob => 3 | .stackOverflow => 4
      | .stackUnderflow => 5 | .keyOob => 6 | .spriteEdge => 7 | .reservedWrite => 8) ∧
    (s.faultCause = none → s.outputs.faultCause = 0) ∧ s.outputs.faultPc = s.faultPc ∧
    s.outputs.faultInfo = s.faultInfo ∧ s.outputs.fbDirty = s.fbDirty ∧ s.outputs.diagUnknown = s.diagUnknown ∧
    s.outputs.diagWord = s.diagWord ∧ s.outputs.fbW = s.cfg.fbW ∧ s.outputs.fbH = s.cfg.fbH ∧ s.outputs.keyCount = 16 ∧
    s.spField.toNat = s.sp.val

/-! ### Whole-machine rules -/

/-- R26, which the spec marks derived: where each instruction leaves `pc` when its step completes, under the KEYS presented
with the step (R41, R53; the queue and the free value that carry them are the model's own, log 3). -/
def Obligations.PcAfterStep : Prop :=
  ∀ (s t : State) (keys : BitVec 16), s.presentsKeys keys → s.status = .running → step s = .next t → t.status = .running →
    t.pc = pcAfter s keys (decodeWord s.wordAtPc)

/-- R21, R23, R30, R32, R35, R38, R43: an instruction that completes writes only its own registers and parts, and the two that
store write only the bytes they store. A VF that changes was changed by one of the six flag writers or by an instruction whose
destination it is. -/
def Obligations.InstructionsWriteOnlyTheirOwn : Prop :=
  ∀ (i : Instr) (s t : State), s.status = .running → exec i s = .next t → t.status = .running →
    Frame (writtenRegs i) (writtenParts i) s t ∧
    (∀ x, i = .bcd x → ∀ a, ¬ (s.effAddr 0 ≤ a ∧ a < s.effAddr 3) → t.byteAt a = s.byteAt a) ∧
    (∀ x, i = .storeRegs x → ∀ a, ¬ (s.effAddr 0 ≤ a ∧ a ≤ s.effAddr x.val) → t.byteAt a = s.byteAt a)

/-- R41, R53, R54: KEYS and RND reach only SKP, SKNP, LD Vx,K and RND: any other handler does the same whatever they are. The
queue and the counter that carry them are the model's own (log 3). -/
def Obligations.InputsReachOnlyTheirInstructions : Prop :=
  ∀ (i : Instr) (s t : State) (l : List StepInput) (n : Nat),
    (∀ x kk, i ≠ .skp x ∧ i ≠ .sknp x ∧ i ≠ .ldKey x ∧ i ≠ .rnd x kk) → exec i s = .next t →
    exec i { s with inputs := l, tick := n } = .next { t with inputs := l, tick := n }

/-- R36 (decision D26): ST has no effect on any other state: two steps from states that differ in ST alone end in states that
differ in ST alone. -/
def Obligations.SoundTimerAffectsNothing : Prop :=
  ∀ (s t : State) (b : Byte), step s = .next t → ∃ b', step { s with st := b } = .next { t with st := b' }

/-! ### Register loads and the ALU -/

/-- R140, R141: V[x] <- kk, and V[x] <- (V[x] + kk) mod 2^8 with no flag; nothing else changes. -/
def Obligations.LoadAndAddImmediate : Prop :=
  ∀ (x : RegIdx) (kk : Byte) (s : State),
    decodeWord (wordXKK 0x6 x kk) = .ldImm x kk ∧ decodeWord (wordXKK 0x7 x kk) = .addImm x kk ∧
    (∃ t, exec (.ldImm x kk) s = .next t ∧ t.reg x = kk ∧ Frame [x] [] s t) ∧
    (∃ t, exec (.addImm x kk) s = .next t ∧ (t.reg x).toNat = ((s.reg x).toNat + kk.toNat) % 256 ∧ Frame [x] [] s t)

/-- R143 to R146 (whose sub-nibbles the spec takes from general knowledge, log 5): move, OR, AND, XOR, without the flag. -/
def Obligations.MoveAndBitwise : Prop :=
  ∀ (x y : RegIdx) (s : State),
    decodeWord (wordXYN 0x8 x y 0x0) = .ldReg x y ∧ decodeWord (wordXYN 0x8 x y 0x1) = .orReg x y ∧
    decodeWord (wordXYN 0x8 x y 0x2) = .andReg x y ∧ decodeWord (wordXYN 0x8 x y 0x3) = .xorReg x y ∧
    (∃ t, exec (.ldReg x y) s = .next t ∧ t.reg x = s.reg y ∧ Frame [x] [] s t) ∧
    (∃ t, exec (.orReg x y) s = .next t ∧ t.reg x = s.reg x ||| s.reg y ∧ Frame [x] [] s t) ∧
    (∃ t, exec (.andReg x y) s = .next t ∧ t.reg x = s.reg x &&& s.reg y ∧ Frame [x] [] s t) ∧
    (∃ t, exec (.xorReg x y) s = .next t ∧ t.reg x = s.reg x ^^^ s.reg y ∧ Frame [x] [] s t)

/-- R147: the sum mod 2^8 goes to V[x] and the carry to VF; where x = F the sum stays. -/
def Obligations.AddSetsCarry : Prop :=
  ∀ (x y : RegIdx) (s : State),
    decodeWord (wordXYN 0x8 x y 0x4) = .addReg x y ∧
    ∃ t, exec (.addReg x y) s = .next t ∧ (t.reg x).toNat = ((s.reg x).toNat + (s.reg y).toNat) % 256 ∧
      (x ≠ vf → t.reg vf = if (s.reg x).toNat + (s.reg y).toNat > 255 then 1 else 0) ∧ Frame [x, vf] [] s t

/-- R148, R150: the difference mod 2^8 goes to V[x] and the strict comparison to VF; where x = F the difference stays. -/
def Obligations.SubtractsSetStrictFlag : Prop :=
  ∀ (x y : RegIdx) (s : State),
    decodeWord (wordXYN 0x8 x y 0x5) = .subReg x y ∧ decodeWord (wordXYN 0x8 x y 0x7) = .subnReg x y ∧
    (∃ t, exec (.subReg x y) s = .next t ∧ (t.reg x).toNat = ((s.reg x).toNat + 256 - (s.reg y).toNat) % 256 ∧
      (x ≠ vf → t.reg vf = if (s.reg x).toNat > (s.reg y).toNat then 1 else 0) ∧ Frame [x, vf] [] s t) ∧
    (∃ t, exec (.subnReg x y) s = .next t ∧ (t.reg x).toNat = ((s.reg y).toNat + 256 - (s.reg x).toNat) % 256 ∧
      (x ≠ vf → t.reg vf = if (s.reg y).toNat > (s.reg x).toNat then 1 else 0) ∧ Frame [x, vf] [] s t)

/-- R149, R151: V[x] shifted by 1, the bit shifted out to VF, whatever `y` is; where x = F the shifted value stays. -/
def Obligations.ShiftsSetBitOut : Prop :=
  ∀ (x y : RegIdx) (s : State),
    decodeWord (wordXYN 0x8 x y 0x6) = .shr x y ∧ decodeWord (wordXYN 0x8 x y 0xE) = .shl x y ∧
    (∃ t, exec (.shr x y) s = .next t ∧ (t.reg x).toNat = (s.reg x).toNat / 2 ∧
      (x ≠ vf → (t.reg vf).toNat = (s.reg x).toNat % 2) ∧ Frame [x, vf] [] s t) ∧
    (∃ t, exec (.shl x y) s = .next t ∧ (t.reg x).toNat = (s.reg x).toNat * 2 % 256 ∧
      (x ≠ vf → (t.reg vf).toNat = (s.reg x).toNat / 128 % 2) ∧ Frame [x, vf] [] s t)

/-- R152, R42 (decision D11): V[x] <- RND AND kk for the byte the host presents, whatever it is; where the model queues no input
the byte is the free value (log 3). -/
def Obligations.RandomByteIsMasked : Prop :=
  ∀ (x : RegIdx) (kk : Byte) (s : State),
    decodeWord (wordXKK 0xC x kk) = .rnd x kk ∧
    (∀ (i : StepInput) (l : List StepInput), s.inputs = i :: l →
      ∃ t, exec (.rnd x kk) s = .next t ∧ t.reg x = i.rnd &&& kk ∧ Frame [x] [] s t) ∧
    (s.inputs = [] → ∃ t, exec (.rnd x kk) s = .next t ∧ t.reg x = Config.freeRnd s.tick &&& kk ∧ Frame [x] [] s t)

/-! ### Control transfer -/

/-- R122: `pc` <- nnn, nothing else. -/
def Obligations.JumpSetsPc : Prop :=
  ∀ (nnn : Addr12) (s : State),
    decodeWord (wordNNN 0x1 nnn) = .jp nnn ∧
    ∃ t, exec (.jp nnn) s = .next t ∧ t.pc.toNat = nnn.toNat ∧ Frame [] [.pc] s t

/-- R128 (decision D10): `pc` <- V[0] + nnn with no wrap at 12 bits or at MEM_SIZE, nothing else. -/
def Obligations.JumpAddsV0 : Prop :=
  ∀ (nnn : Addr12) (s : State),
    decodeWord (wordNNN 0xB nnn) = .jpV0 nnn ∧
    ∃ t, exec (.jpV0 nnn) s = .next t ∧ t.pc.toNat = (s.reg 0).toNat + nnn.toNat ∧ Frame [] [.pc] s t

/-- R123 (decision D3): with fewer than 16 levels in use, the return address goes into slot SP, SP grows by 1 and `pc` is nnn;
with 16 in use, STACK_OVERFLOW. -/
def Obligations.CallPushesOrOverflows : Prop :=
  ∀ (nnn : Addr12) (s : State),
    decodeWord (wordNNN 0x2 nnn) = .call nnn ∧
    (s.sp.val < 16 → ∃ t, exec (.call nnn) s = .next t ∧ t.sp.val = s.sp.val + 1 ∧ t.pc.toNat = nnn.toNat ∧
      (∀ j : Fin 16, t.stack.get j = if j.val = s.sp.val then s.pc else s.stack.get j) ∧ Frame [] [.pc, .callStack] s t) ∧
    (s.sp.val = 16 → ∃ t, exec (.call nnn) s = .next t ∧ Faults .stackOverflow 16 s t)

/-- R121 (decisions D3, D30): with a level in use, SP shrinks by 1, `pc` is the slot it then names, and the slots keep their
values; with none in use, STACK_UNDERFLOW. -/
def Obligations.ReturnPopsOrUnderflows : Prop :=
  ∀ s : State,
    (0 < s.sp.val → ∃ t, exec .ret s = .next t ∧ t.sp.val + 1 = s.sp.val ∧
      (∀ j : Fin 16, j.val = t.sp.val → t.pc = s.stack.get j) ∧ t.stack = s.stack ∧ Frame [] [.pc, .callStack] s t) ∧
    (s.sp.val = 0 → ∃ t, exec .ret s = .next t ∧ Faults .stackUnderflow 0 s t)

/-- R129, which the spec marks derived: a return right after a call that did not fault leaves `pc` at the call's next word and
SP as it was before. -/
def Obligations.CallThenReturnComesBack : Prop :=
  ∀ (nnn : Addr12) (s : State), s.sp.val < 16 →
    ∃ t u, exec (.call nnn) s = .next t ∧ exec .ret { t with pc := t.pc + 2 } = .next u ∧
      u.pc = s.pc ∧ u.sp = s.sp ∧ u.status = s.status

/-- R124, R125: skip the next word when V[x] = kk, and when V[x] is not kk. -/
def Obligations.SkipsOnImmediate : Prop :=
  ∀ (x : RegIdx) (kk : Byte) (s : State),
    decodeWord (wordXKK 0x3 x kk) = .seImm x kk ∧ decodeWord (wordXKK 0x4 x kk) = .sneImm x kk ∧
    (∃ t, exec (.seImm x kk) s = .next t ∧ t.pc = (if s.reg x = kk then s.pc + 2 else s.pc) ∧ Frame [] [.pc] s t) ∧
    (∃ t, exec (.sneImm x kk) s = .next t ∧ t.pc = (if s.reg x = kk then s.pc else s.pc + 2) ∧ Frame [] [.pc] s t)

/-- R126, R127 (decision D17 for the ignored nibble): skip the next word when V[x] = V[y], and when they differ. -/
def Obligations.SkipsOnRegisters : Prop :=
  ∀ (x y : RegIdx) (n : Nibble) (s : State),
    decodeWord (wordXYN 0x5 x y n) = .seReg x y n ∧ decodeWord (wordXYN 0x9 x y n) = .sneReg x y n ∧
    (∃ t, exec (.seReg x y n) s = .next t ∧ t.pc = (if s.reg x = s.reg y then s.pc + 2 else s.pc) ∧ Frame [] [.pc] s t) ∧
    (∃ t, exec (.sneReg x y n) s = .next t ∧ t.pc = (if s.reg x = s.reg y then s.pc else s.pc + 2) ∧ Frame [] [.pc] s t)

/-- R213, R214 (decision D5), for the KEYS presented with the step, whatever they are (R41, R53; log 3): on a key number below
16, skip when that key is pressed, and when it is not; on any other value of V[x], KEY_OOB with it. -/
def Obligations.SkipsOnKeys : Prop :=
  ∀ (x : RegIdx) (s : State) (keys : BitVec 16), s.presentsKeys keys →
    decodeWord (wordXKK 0xE x 0x9E) = .skp x ∧ decodeWord (wordXKK 0xE x 0xA1) = .sknp x ∧
    ((s.reg x).toNat < 16 →
      (∃ t, exec (.skp x) s = .next t ∧
        t.pc = (if keys.getLsbD (s.reg x).toNat = true then s.pc + 2 else s.pc) ∧ Frame [] [.pc] s t) ∧
      (∃ t, exec (.sknp x) s = .next t ∧
        t.pc = (if keys.getLsbD (s.reg x).toNat = true then s.pc else s.pc + 2) ∧ Frame [] [.pc] s t)) ∧
    (16 ≤ (s.reg x).toNat →
      (∃ t, exec (.skp x) s = .next t ∧ Faults .keyOob (s.reg x).toNat s t) ∧
      (∃ t, exec (.sknp x) s = .next t ∧ Faults .keyOob (s.reg x).toNat s t))

/-- R215 (decisions D6, D28), for the KEYS presented with the step, whatever they are (R41, R53; log 3): with no key pressed
`pc` goes back to the instruction's own word; with some pressed, V[x] is the lowest of them and `pc` stays past the word. -/
def Obligations.WaitForKey : Prop :=
  ∀ (x : RegIdx) (s : State) (keys : BitVec 16), s.presentsKeys keys →
    decodeWord (wordXKK 0xF x 0x0A) = .ldKey x ∧
    ((∀ k, k < 16 → keys.getLsbD k = false) →
      ∃ t, exec (.ldKey x) s = .next t ∧ t.pc = s.pc - 2 ∧ Frame [] [.pc] s t) ∧
    (∀ k, k < 16 → keys.getLsbD k = true → (∀ j, j < k → keys.getLsbD j = false) →
      ∃ t, exec (.ldKey x) s = .next t ∧ (t.reg x).toNat = k ∧ Frame [x] [] s t)

/-! ### Timers -/

/-- R210: V[x] <- DT, the value before this step's countdown, a consequence the spec marks derived. -/
def Obligations.TimerReads : Prop :=
  ∀ (x : RegIdx) (s : State),
    decodeWord (wordXKK 0xF x 0x07) = .ldVxDt x ∧
    (∃ t, exec (.ldVxDt x) s = .next t ∧ t.reg x = s.dt ∧ Frame [x] [] s t) ∧
    (s.status = .running → s.pc.toNat + 1 < s.cfg.memSize → s.wordAtPc = wordXKK 0xF x 0x07 →
      ∃ t, step s = .next t ∧ t.reg x = s.dt ∧ t.dt.toNat = s.dt.toNat - 1)

/-- R211, R212: DT <- V[x] and ST <- V[x], counted down at once in the same step. -/
def Obligations.TimerWrites : Prop :=
  ∀ (x : RegIdx) (s : State),
    decodeWord (wordXKK 0xF x 0x15) = .ldDtVx x ∧ decodeWord (wordXKK 0xF x 0x18) = .ldStVx x ∧
    (∃ t, exec (.ldDtVx x) s = .next t ∧ t.dt = s.reg x ∧ Frame [] [.dt] s t) ∧
    (∃ t, exec (.ldStVx x) s = .next t ∧ t.st = s.reg x ∧ Frame [] [.st] s t) ∧
    (s.status = .running → s.pc.toNat + 1 < s.cfg.memSize → s.wordAtPc = wordXKK 0xF x 0x15 →
      ∃ t, step s = .next t ∧ t.dt.toNat = (s.reg x).toNat - 1) ∧
    (s.status = .running → s.pc.toNat + 1 < s.cfg.memSize → s.wordAtPc = wordXKK 0xF x 0x18 →
      ∃ t, step s = .next t ∧ t.st.toNat = (s.reg x).toNat - 1)

/-! ### The index register and memory transfers -/

/-- R170: `I` <- nnn, its upper four bits 0; nothing else. -/
def Obligations.LoadIndex : Prop :=
  ∀ (nnn : Addr12) (s : State),
    decodeWord (wordNNN 0xA nnn) = .ldI nnn ∧
    ∃ t, exec (.ldI nnn) s = .next t ∧ t.index.toNat = nnn.toNat ∧ Frame [] [.index] s t

/-- R171, R172 (decisions D8, D10): `I` <- (I + V[x]) mod 2^16 and `I` <- (FONT_ADDR_BASE + 5 V[x]) mod 2^16, V[x] not masked, no
flag. -/
def Obligations.IndexSumAndGlyph : Prop :=
  ∀ (x : RegIdx) (s : State),
    decodeWord (wordXKK 0xF x 0x1E) = .addI x ∧ decodeWord (wordXKK 0xF x 0x29) = .ldFont x ∧
    (∃ t, exec (.addI x) s = .next t ∧ t.index.toNat = (s.index.toNat + (s.reg x).toNat) % 65536 ∧ Frame [] [.index] s t) ∧
    (∃ t, exec (.ldFont x) s = .next t ∧ t.index.toNat = (s.cfg.fontAddrBase + 5 * (s.reg x).toNat) % 65536 ∧
      Frame [] [.index] s t)

/-- R173 (decisions D2, D12): the three decimal digits go to I, I + 1, I + 2 and no other byte changes; out of range or into a
protected reserved region, the first failing address faults and nothing is written. -/
def Obligations.BcdStoresDigits : Prop :=
  ∀ (x : RegIdx) (s : State),
    decodeWord (wordXKK 0xF x 0x33) = .bcd x ∧
    (s.effAddr 2 < s.cfg.memSize → (s.cfg.reservedWrite = .allow ∨ 0x1FF < s.effAddr 0) →
      ∃ t, exec (.bcd x) s = .next t ∧ (t.byteAt (s.effAddr 0)).toNat = (s.reg x).toNat / 100 ∧
        (t.byteAt (s.effAddr 1)).toNat = (s.reg x).toNat / 10 % 10 ∧ (t.byteAt (s.effAddr 2)).toNat = (s.reg x).toNat % 10 ∧
        (∀ a, ¬ (s.effAddr 0 ≤ a ∧ a < s.effAddr 3) → t.byteAt a = s.byteAt a) ∧ Frame [] [.memory] s t) ∧
    (s.cfg.memSize ≤ s.effAddr 2 →
      (s.cfg.reservedWrite = .allow ∨ 0x1FF < s.effAddr 0 ∨ s.cfg.memSize ≤ s.effAddr 0) →
      ∃ t, exec (.bcd x) s = .next t ∧ Faults .writeOob (max (s.effAddr 0) s.cfg.memSize) s t) ∧
    (s.cfg.reservedWrite = .fault → s.effAddr 0 ≤ 0x1FF → s.effAddr 0 < s.cfg.memSize →
      ∃ t, exec (.bcd x) s = .next t ∧ Faults .reservedWrite (s.effAddr 0) s t)

/-- R174 (decisions D2, D12): V[0..x] go to I .. I + x and no other byte changes, `I` included; out of range or into a protected
reserved region, the first failing address faults and nothing is written. -/
def Obligations.StoreRegistersToMemory : Prop :=
  ∀ (x : RegIdx) (s : State),
    decodeWord (wordXKK 0xF x 0x55) = .storeRegs x ∧
    (s.effAddr x.val < s.cfg.memSize → (s.cfg.reservedWrite = .allow ∨ 0x1FF < s.effAddr 0) →
      ∃ t, exec (.storeRegs x) s = .next t ∧ (∀ k : RegIdx, k ≤ x → t.byteAt (s.effAddr k.val) = s.reg k) ∧
        (∀ a, ¬ (s.effAddr 0 ≤ a ∧ a ≤ s.effAddr x.val) → t.byteAt a = s.byteAt a) ∧ Frame [] [.memory] s t) ∧
    (s.cfg.memSize ≤ s.effAddr x.val →
      (s.cfg.reservedWrite = .allow ∨ 0x1FF < s.effAddr 0 ∨ s.cfg.memSize ≤ s.effAddr 0) →
      ∃ t, exec (.storeRegs x) s = .next t ∧ Faults .writeOob (max (s.effAddr 0) s.cfg.memSize) s t) ∧
    (s.cfg.reservedWrite = .fault → s.effAddr 0 ≤ 0x1FF → s.effAddr 0 < s.cfg.memSize →
      ∃ t, exec (.storeRegs x) s = .next t ∧ Faults .reservedWrite (s.effAddr 0) s t)

/-- R175 (decision D2): V[0..x] are loaded from I .. I + x, nothing else changes; out of range, the first failing address faults
and no register is loaded. -/
def Obligations.LoadRegistersFromMemory : Prop :=
  ∀ (x : RegIdx) (s : State),
    decodeWord (wordXKK 0xF x 0x65) = .loadRegs x ∧
    (s.effAddr x.val < s.cfg.memSize →
      ∃ t, exec (.loadRegs x) s = .next t ∧ (∀ k : RegIdx, k ≤ x → t.reg k = s.byteAt (s.effAddr k.val)) ∧
        Frame ((List.finRange 16).filter (fun k => k ≤ x)) [] s t) ∧
    (s.cfg.memSize ≤ s.effAddr x.val →
      ∃ t, exec (.loadRegs x) s = .next t ∧ Faults .readOob (max (s.effAddr 0) s.cfg.memSize) s t)

/-- R74, R272, which the spec marks derived: every later fetch that takes in a byte stored by Fx55 or Fx33 reads it as stored:
both bytes of the word stored, its second byte alone (the word starts just below `I`), or its first alone (it starts at the
last byte stored). A store to the instruction's own bytes changes memory and not the step that makes it. -/
def Obligations.StoredWordIsFetched : Prop :=
  ∀ (x : RegIdx) (s t : State), s.status = .running → t.status = .running →
    (exec (.storeRegs x) s = .next t → ∀ a : Word,
      (∀ k j : RegIdx, j.val = k.val + 1 → j ≤ x → a.toNat = s.effAddr k.val → (t.setPc a).fetch = .ok (s.reg k ++ s.reg j)) ∧
      (a.toNat + 1 = s.effAddr 0 → (t.setPc a).fetch = .ok (s.byteAt a.toNat ++ s.reg 0)) ∧
      (a.toNat = s.effAddr x.val → a.toNat + 1 < s.cfg.memSize →
        (t.setPc a).fetch = .ok (s.reg x ++ s.byteAt (a.toNat + 1)))) ∧
    (exec (.bcd x) s = .next t → ∀ (a : Word) (d₀ d₁ d₂ : Byte), d₀.toNat = (s.reg x).toNat / 100 →
      d₁.toNat = (s.reg x).toNat / 10 % 10 → d₂.toNat = (s.reg x).toNat % 10 →
      (a.toNat = s.effAddr 0 → (t.setPc a).fetch = .ok (d₀ ++ d₁)) ∧
      (a.toNat = s.effAddr 1 → (t.setPc a).fetch = .ok (d₁ ++ d₂)) ∧
      (a.toNat + 1 = s.effAddr 0 → (t.setPc a).fetch = .ok (s.byteAt a.toNat ++ d₀)) ∧
      (a.toNat = s.effAddr 2 → a.toNat + 1 < s.cfg.memSize →
        (t.setPc a).fetch = .ok (d₂ ++ s.byteAt (a.toNat + 1)))) ∧
    (step s = .next t → s.wordAtPc = wordXKK 0xF x 0x55 →
      t.pc = s.pc + 2 ∧ t.diagWord = s.wordAtPc ∧ ∀ k : RegIdx, k ≤ x → t.byteAt (s.effAddr k.val) = s.reg k) ∧
    (step s = .next t → s.wordAtPc = wordXKK 0xF x 0x33 →
      t.pc = s.pc + 2 ∧ t.diagWord = s.wordAtPc ∧ (t.byteAt (s.effAddr 0)).toNat = (s.reg x).toNat / 100 ∧
        (t.byteAt (s.effAddr 1)).toNat = (s.reg x).toNat / 10 % 10 ∧ (t.byteAt (s.effAddr 2)).toNat = (s.reg x).toNat % 10)

/-! ### The display -/

/-- R190: every pixel is off, whatever it was, VF is unchanged, and the step reports FB_DIRTY. -/
def Obligations.ClearScreen : Prop :=
  ∀ s : State,
    decodeWord 0x00E0 = .cls ∧
    (∃ t, exec .cls s = .next t ∧ t.fb.length = s.cfg.fbH * s.cfg.fbW ∧ (∀ r c, t.pixel r c = false) ∧
      Frame [] [.framebuffer] s t) ∧
    (s.status = .running → s.pc.toNat + 1 < s.cfg.memSize → s.wordAtPc = 0x00E0 →
      ∃ t, step s = .next t ∧ t.fbDirty = true ∧ t.pc = s.pc + 2 ∧ t.status = .running ∧ ∀ r c, t.pixel r c = false)

/-- R191 to R193 (decisions D2, D4, D29): with its rows in memory, and under `fault` with no set bit off the screen, a draw
completes: each pixel on the screen is XORed with the sprite's bit over it, the coordinates taken before VF is cleared; VF
is 1 when some pixel on the screen was on under a set bit and 0 otherwise; bits off the screen do nothing. -/
def Obligations.DrawXorsSpriteBits : Prop :=
  ∀ (x y : RegIdx) (n : Fin 16) (s : State), s.fb.length = s.cfg.fbH * s.cfg.fbW →
    (∀ row, row < n.val → s.index.toNat + row < s.cfg.memSize) →
    (s.cfg.spriteEdge = .clip ∨ ∀ r c, s.spriteBit x y n.val r c = true → s.onScreen r c) →
    ∃ t, exec (.drw x y n) s = .next t ∧
      (∀ r c, s.onScreen r c → t.pixel r c = (s.pixel r c ^^ s.spriteBit x y n.val r c)) ∧
      ((∃ r c, s.onScreen r c ∧ s.spriteBit x y n.val r c = true ∧ s.pixel r c = true) → t.reg vf = 1) ∧
      ((¬ ∃ r c, s.onScreen r c ∧ s.spriteBit x y n.val r c = true ∧ s.pixel r c = true) → t.reg vf = 0) ∧
      t.fb.length = s.fb.length ∧ Frame [vf] [.framebuffer] s t

/-- R193, R237 (decisions D2, D4, D27): the first check of a draw that fails is the one reported: a row's read before its
bits, the rows in order, the columns in order within a row. -/
def Obligations.DrawReportsFirstFailingCheck : Prop :=
  ∀ (x y : RegIdx) (n : Fin 16) (s : State) (row col : Nat), row < n.val →
    ((∀ k, k < row → s.index.toNat + k < s.cfg.memSize) → s.cfg.memSize ≤ s.index.toNat + row →
      (s.cfg.spriteEdge = .clip ∨
        ∀ r c, r < (s.reg y).toNat % s.cfg.fbH + row → s.spriteBit x y n.val r c = true → s.onScreen r c) →
      ∃ t, exec (.drw x y n) s = .next t ∧ Faults .readOob (s.index.toNat + row) s t) ∧
    (∀ r c, r = (s.reg y).toNat % s.cfg.fbH + row → c = (s.reg x).toNat % s.cfg.fbW + col →
      s.cfg.spriteEdge = .fault → (∀ k, k ≤ row → s.index.toNat + k < s.cfg.memSize) →
      s.spriteBit x y n.val r c = true → ¬ s.onScreen r c →
      (∀ r' c', s.spriteBit x y n.val r' c' = true → (r' < r ∨ (r' = r ∧ c' < c)) → s.onScreen r' c') →
      ∃ t, exec (.drw x y n) s = .next t ∧ Faults .spriteEdge (r * 256 + c) s t)

/-- R195, which the spec marks derived: the same draw twice in succession restores every pixel, when neither coordinate is VF. -/
def Obligations.DoubleDrawRestores : Prop :=
  ∀ (x y : RegIdx) (n : Fin 16) (s t u : State), x ≠ vf → y ≠ vf → s.fb.length = s.cfg.fbH * s.cfg.fbW →
    s.status = .running → exec (.drw x y n) s = .next t → t.status = .running →
    exec (.drw x y n) { t with pc := t.pc + 2 } = .next u →
    u.status = .running ∧ ∀ r c, s.onScreen r c → u.pixel r c = s.pixel r c

/-! ### The no-op -/

/-- R108, R239 (decision D22): the no-op handler does nothing; its step still advances `pc`, counts the timers down, sets
STARTED (R46), and reports the word. -/
def Obligations.NoOpOnlyAdvances : Prop :=
  (∀ (w : Word) (s : State), exec (.nop w) s = .next s) ∧
  ∀ s : State, s.status = .running → s.pc.toNat + 1 < s.cfg.memSize → inNoOpSpace s.wordAtPc = true →
    ∃ t, step s = .next t ∧ t.status = .running ∧ t.started = true ∧ t.pc = s.pc + 2 ∧ t.dt.toNat = s.dt.toNat - 1 ∧
      t.st.toNat = s.st.toNat - 1 ∧ t.diagUnknown = true ∧ t.fbDirty = false ∧ t.diagWord = s.wordAtPc ∧
      Frame [] [.pc, .dt, .st, .stepOutputs, .started, .stepInputs] s t
end

