-- ==== Sys2Proof/Laws/State.lean ====
section
/-! SUPPORT. One lemma per field per update of the state, and what each update leaves of the registers, bytes and pixels. -/

namespace Sys2Proof.Machine

/-! ### `setReg` -/

@[simp] theorem setReg_v (s : State) (i : RegIdx) (b : Byte) : (s.setReg i b).v = s.v.set i.val b := rfl
@[simp] theorem setReg_pc (s : State) (i : RegIdx) (b : Byte) : (s.setReg i b).pc = s.pc := rfl
@[simp] theorem setReg_index (s : State) (i : RegIdx) (b : Byte) : (s.setReg i b).index = s.index := rfl
@[simp] theorem setReg_sp (s : State) (i : RegIdx) (b : Byte) : (s.setReg i b).sp = s.sp := rfl
@[simp] theorem setReg_stack (s : State) (i : RegIdx) (b : Byte) : (s.setReg i b).stack = s.stack := rfl
@[simp] theorem setReg_dt (s : State) (i : RegIdx) (b : Byte) : (s.setReg i b).dt = s.dt := rfl
@[simp] theorem setReg_st (s : State) (i : RegIdx) (b : Byte) : (s.setReg i b).st = s.st := rfl
@[simp] theorem setReg_fb (s : State) (i : RegIdx) (b : Byte) : (s.setReg i b).fb = s.fb := rfl
@[simp] theorem setReg_mem (s : State) (i : RegIdx) (b : Byte) : (s.setReg i b).mem = s.mem := rfl
@[simp] theorem setReg_status (s : State) (i : RegIdx) (b : Byte) : (s.setReg i b).status = s.status := rfl
@[simp] theorem setReg_faultCause (s : State) (i : RegIdx) (b : Byte) : (s.setReg i b).faultCause = s.faultCause := rfl
@[simp] theorem setReg_faultPc (s : State) (i : RegIdx) (b : Byte) : (s.setReg i b).faultPc = s.faultPc := rfl
@[simp] theorem setReg_faultInfo (s : State) (i : RegIdx) (b : Byte) : (s.setReg i b).faultInfo = s.faultInfo := rfl
@[simp] theorem setReg_started (s : State) (i : RegIdx) (b : Byte) : (s.setReg i b).started = s.started := rfl
@[simp] theorem setReg_fbDirty (s : State) (i : RegIdx) (b : Byte) : (s.setReg i b).fbDirty = s.fbDirty := rfl
@[simp] theorem setReg_diagUnknown (s : State) (i : RegIdx) (b : Byte) : (s.setReg i b).diagUnknown = s.diagUnknown := rfl
@[simp] theorem setReg_diagWord (s : State) (i : RegIdx) (b : Byte) : (s.setReg i b).diagWord = s.diagWord := rfl
@[simp] theorem setReg_cfg (s : State) (i : RegIdx) (b : Byte) : (s.setReg i b).cfg = s.cfg := rfl
@[simp] theorem setReg_inputs (s : State) (i : RegIdx) (b : Byte) : (s.setReg i b).inputs = s.inputs := rfl
@[simp] theorem setReg_tick (s : State) (i : RegIdx) (b : Byte) : (s.setReg i b).tick = s.tick := rfl
@[simp] theorem setReg_byteAt (s : State) (i : RegIdx) (b : Byte) (k : Nat) : (s.setReg i b).byteAt k = s.byteAt k := rfl
@[simp] theorem setReg_pixel (s : State) (i : RegIdx) (b : Byte) (p q : Nat) : (s.setReg i b).pixel p q = s.pixel p q := rfl
@[simp] theorem setReg_keys (s : State) (i : RegIdx) (b : Byte) : (s.setReg i b).keys = s.keys := rfl
@[simp] theorem setReg_rnd (s : State) (i : RegIdx) (b : Byte) : (s.setReg i b).rnd = s.rnd := rfl
@[simp] theorem setReg_effAddr (s : State) (i : RegIdx) (b : Byte) (k : Nat) : (s.setReg i b).effAddr k = s.effAddr k := rfl

/-! ### `setRegs` -/

@[simp] theorem setRegs_pc (s : State) (bs : List Byte) : (s.setRegs bs).pc = s.pc := rfl
@[simp] theorem setRegs_index (s : State) (bs : List Byte) : (s.setRegs bs).index = s.index := rfl
@[simp] theorem setRegs_sp (s : State) (bs : List Byte) : (s.setRegs bs).sp = s.sp := rfl
@[simp] theorem setRegs_stack (s : State) (bs : List Byte) : (s.setRegs bs).stack = s.stack := rfl
@[simp] theorem setRegs_dt (s : State) (bs : List Byte) : (s.setRegs bs).dt = s.dt := rfl
@[simp] theorem setRegs_st (s : State) (bs : List Byte) : (s.setRegs bs).st = s.st := rfl
@[simp] theorem setRegs_fb (s : State) (bs : List Byte) : (s.setRegs bs).fb = s.fb := rfl
@[simp] theorem setRegs_mem (s : State) (bs : List Byte) : (s.setRegs bs).mem = s.mem := rfl
@[simp] theorem setRegs_status (s : State) (bs : List Byte) : (s.setRegs bs).status = s.status := rfl
@[simp] theorem setRegs_faultCause (s : State) (bs : List Byte) : (s.setRegs bs).faultCause = s.faultCause := rfl
@[simp] theorem setRegs_faultPc (s : State) (bs : List Byte) : (s.setRegs bs).faultPc = s.faultPc := rfl
@[simp] theorem setRegs_faultInfo (s : State) (bs : List Byte) : (s.setRegs bs).faultInfo = s.faultInfo := rfl
@[simp] theorem setRegs_started (s : State) (bs : List Byte) : (s.setRegs bs).started = s.started := rfl
@[simp] theorem setRegs_fbDirty (s : State) (bs : List Byte) : (s.setRegs bs).fbDirty = s.fbDirty := rfl
@[simp] theorem setRegs_diagUnknown (s : State) (bs : List Byte) : (s.setRegs bs).diagUnknown = s.diagUnknown := rfl
@[simp] theorem setRegs_diagWord (s : State) (bs : List Byte) : (s.setRegs bs).diagWord = s.diagWord := rfl
@[simp] theorem setRegs_cfg (s : State) (bs : List Byte) : (s.setRegs bs).cfg = s.cfg := rfl
@[simp] theorem setRegs_inputs (s : State) (bs : List Byte) : (s.setRegs bs).inputs = s.inputs := rfl
@[simp] theorem setRegs_tick (s : State) (bs : List Byte) : (s.setRegs bs).tick = s.tick := rfl
@[simp] theorem setRegs_byteAt (s : State) (bs : List Byte) (k : Nat) : (s.setRegs bs).byteAt k = s.byteAt k := rfl
@[simp] theorem setRegs_pixel (s : State) (bs : List Byte) (p q : Nat) : (s.setRegs bs).pixel p q = s.pixel p q := rfl
@[simp] theorem setRegs_keys (s : State) (bs : List Byte) : (s.setRegs bs).keys = s.keys := rfl
@[simp] theorem setRegs_rnd (s : State) (bs : List Byte) : (s.setRegs bs).rnd = s.rnd := rfl
@[simp] theorem setRegs_effAddr (s : State) (bs : List Byte) (k : Nat) : (s.setRegs bs).effAddr k = s.effAddr k := rfl

/-! ### `setPc` -/

@[simp] theorem setPc_v (s : State) (a : Word) : (s.setPc a).v = s.v := rfl
@[simp] theorem setPc_pc (s : State) (a : Word) : (s.setPc a).pc = a := rfl
@[simp] theorem setPc_index (s : State) (a : Word) : (s.setPc a).index = s.index := rfl
@[simp] theorem setPc_sp (s : State) (a : Word) : (s.setPc a).sp = s.sp := rfl
@[simp] theorem setPc_stack (s : State) (a : Word) : (s.setPc a).stack = s.stack := rfl
@[simp] theorem setPc_dt (s : State) (a : Word) : (s.setPc a).dt = s.dt := rfl
@[simp] theorem setPc_st (s : State) (a : Word) : (s.setPc a).st = s.st := rfl
@[simp] theorem setPc_fb (s : State) (a : Word) : (s.setPc a).fb = s.fb := rfl
@[simp] theorem setPc_mem (s : State) (a : Word) : (s.setPc a).mem = s.mem := rfl
@[simp] theorem setPc_status (s : State) (a : Word) : (s.setPc a).status = s.status := rfl
@[simp] theorem setPc_faultCause (s : State) (a : Word) : (s.setPc a).faultCause = s.faultCause := rfl
@[simp] theorem setPc_faultPc (s : State) (a : Word) : (s.setPc a).faultPc = s.faultPc := rfl
@[simp] theorem setPc_faultInfo (s : State) (a : Word) : (s.setPc a).faultInfo = s.faultInfo := rfl
@[simp] theorem setPc_started (s : State) (a : Word) : (s.setPc a).started = s.started := rfl
@[simp] theorem setPc_fbDirty (s : State) (a : Word) : (s.setPc a).fbDirty = s.fbDirty := rfl
@[simp] theorem setPc_diagUnknown (s : State) (a : Word) : (s.setPc a).diagUnknown = s.diagUnknown := rfl
@[simp] theorem setPc_diagWord (s : State) (a : Word) : (s.setPc a).diagWord = s.diagWord := rfl
@[simp] theorem setPc_cfg (s : State) (a : Word) : (s.setPc a).cfg = s.cfg := rfl
@[simp] theorem setPc_inputs (s : State) (a : Word) : (s.setPc a).inputs = s.inputs := rfl
@[simp] theorem setPc_tick (s : State) (a : Word) : (s.setPc a).tick = s.tick := rfl
@[simp] theorem setPc_reg (s : State) (a : Word) (j : RegIdx) : (s.setPc a).reg j = s.reg j := rfl
@[simp] theorem setPc_byteAt (s : State) (a : Word) (k : Nat) : (s.setPc a).byteAt k = s.byteAt k := rfl
@[simp] theorem setPc_pixel (s : State) (a : Word) (p q : Nat) : (s.setPc a).pixel p q = s.pixel p q := rfl
@[simp] theorem setPc_keys (s : State) (a : Word) : (s.setPc a).keys = s.keys := rfl
@[simp] theorem setPc_rnd (s : State) (a : Word) : (s.setPc a).rnd = s.rnd := rfl
@[simp] theorem setPc_effAddr (s : State) (a : Word) (k : Nat) : (s.setPc a).effAddr k = s.effAddr k := rfl

/-! ### `setIndex` -/

@[simp] theorem setIndex_v (s : State) (a : Word) : (s.setIndex a).v = s.v := rfl
@[simp] theorem setIndex_pc (s : State) (a : Word) : (s.setIndex a).pc = s.pc := rfl
@[simp] theorem setIndex_index (s : State) (a : Word) : (s.setIndex a).index = a := rfl
@[simp] theorem setIndex_sp (s : State) (a : Word) : (s.setIndex a).sp = s.sp := rfl
@[simp] theorem setIndex_stack (s : State) (a : Word) : (s.setIndex a).stack = s.stack := rfl
@[simp] theorem setIndex_dt (s : State) (a : Word) : (s.setIndex a).dt = s.dt := rfl
@[simp] theorem setIndex_st (s : State) (a : Word) : (s.setIndex a).st = s.st := rfl
@[simp] theorem setIndex_fb (s : State) (a : Word) : (s.setIndex a).fb = s.fb := rfl
@[simp] theorem setIndex_mem (s : State) (a : Word) : (s.setIndex a).mem = s.mem := rfl
@[simp] theorem setIndex_status (s : State) (a : Word) : (s.setIndex a).status = s.status := rfl
@[simp] theorem setIndex_faultCause (s : State) (a : Word) : (s.setIndex a).faultCause = s.faultCause := rfl
@[simp] theorem setIndex_faultPc (s : State) (a : Word) : (s.setIndex a).faultPc = s.faultPc := rfl
@[simp] theorem setIndex_faultInfo (s : State) (a : Word) : (s.setIndex a).faultInfo = s.faultInfo := rfl
@[simp] theorem setIndex_started (s : State) (a : Word) : (s.setIndex a).started = s.started := rfl
@[simp] theorem setIndex_fbDirty (s : State) (a : Word) : (s.setIndex a).fbDirty = s.fbDirty := rfl
@[simp] theorem setIndex_diagUnknown (s : State) (a : Word) : (s.setIndex a).diagUnknown = s.diagUnknown := rfl
@[simp] theorem setIndex_diagWord (s : State) (a : Word) : (s.setIndex a).diagWord = s.diagWord := rfl
@[simp] theorem setIndex_cfg (s : State) (a : Word) : (s.setIndex a).cfg = s.cfg := rfl
@[simp] theorem setIndex_inputs (s : State) (a : Word) : (s.setIndex a).inputs = s.inputs := rfl
@[simp] theorem setIndex_tick (s : State) (a : Word) : (s.setIndex a).tick = s.tick := rfl
@[simp] theorem setIndex_reg (s : State) (a : Word) (j : RegIdx) : (s.setIndex a).reg j = s.reg j := rfl
@[simp] theorem setIndex_byteAt (s : State) (a : Word) (k : Nat) : (s.setIndex a).byteAt k = s.byteAt k := rfl
@[simp] theorem setIndex_pixel (s : State) (a : Word) (p q : Nat) : (s.setIndex a).pixel p q = s.pixel p q := rfl
@[simp] theorem setIndex_keys (s : State) (a : Word) : (s.setIndex a).keys = s.keys := rfl
@[simp] theorem setIndex_rnd (s : State) (a : Word) : (s.setIndex a).rnd = s.rnd := rfl

/-! ### `setDt` -/

@[simp] theorem setDt_v (s : State) (b : Byte) : (s.setDt b).v = s.v := rfl
@[simp] theorem setDt_pc (s : State) (b : Byte) : (s.setDt b).pc = s.pc := rfl
@[simp] theorem setDt_index (s : State) (b : Byte) : (s.setDt b).index = s.index := rfl
@[simp] theorem setDt_sp (s : State) (b : Byte) : (s.setDt b).sp = s.sp := rfl
@[simp] theorem setDt_stack (s : State) (b : Byte) : (s.setDt b).stack = s.stack := rfl
@[simp] theorem setDt_dt (s : State) (b : Byte) : (s.setDt b).dt = b := rfl
@[simp] theorem setDt_st (s : State) (b : Byte) : (s.setDt b).st = s.st := rfl
@[simp] theorem setDt_fb (s : State) (b : Byte) : (s.setDt b).fb = s.fb := rfl
@[simp] theorem setDt_mem (s : State) (b : Byte) : (s.setDt b).mem = s.mem := rfl
@[simp] theorem setDt_status (s : State) (b : Byte) : (s.setDt b).status = s.status := rfl
@[simp] theorem setDt_faultCause (s : State) (b : Byte) : (s.setDt b).faultCause = s.faultCause := rfl
@[simp] theorem setDt_faultPc (s : State) (b : Byte) : (s.setDt b).faultPc = s.faultPc := rfl
@[simp] theorem setDt_faultInfo (s : State) (b : Byte) : (s.setDt b).faultInfo = s.faultInfo := rfl
@[simp] theorem setDt_started (s : State) (b : Byte) : (s.setDt b).started = s.started := rfl
@[simp] theorem setDt_fbDirty (s : State) (b : Byte) : (s.setDt b).fbDirty = s.fbDirty := rfl
@[simp] theorem setDt_diagUnknown (s : State) (b : Byte) : (s.setDt b).diagUnknown = s.diagUnknown := rfl
@[simp] theorem setDt_diagWord (s : State) (b : Byte) : (s.setDt b).diagWord = s.diagWord := rfl
@[simp] theorem setDt_cfg (s : State) (b : Byte) : (s.setDt b).cfg = s.cfg := rfl
@[simp] theorem setDt_inputs (s : State) (b : Byte) : (s.setDt b).inputs = s.inputs := rfl
@[simp] theorem setDt_tick (s : State) (b : Byte) : (s.setDt b).tick = s.tick := rfl
@[simp] theorem setDt_reg (s : State) (b : Byte) (j : RegIdx) : (s.setDt b).reg j = s.reg j := rfl
@[simp] theorem setDt_byteAt (s : State) (b : Byte) (k : Nat) : (s.setDt b).byteAt k = s.byteAt k := rfl
@[simp] theorem setDt_pixel (s : State) (b : Byte) (p q : Nat) : (s.setDt b).pixel p q = s.pixel p q := rfl
@[simp] theorem setDt_keys (s : State) (b : Byte) : (s.setDt b).keys = s.keys := rfl
@[simp] theorem setDt_rnd (s : State) (b : Byte) : (s.setDt b).rnd = s.rnd := rfl
@[simp] theorem setDt_effAddr (s : State) (b : Byte) (k : Nat) : (s.setDt b).effAddr k = s.effAddr k := rfl

/-! ### `setSt` -/

@[simp] theorem setSt_v (s : State) (b : Byte) : (s.setSt b).v = s.v := rfl
@[simp] theorem setSt_pc (s : State) (b : Byte) : (s.setSt b).pc = s.pc := rfl
@[simp] theorem setSt_index (s : State) (b : Byte) : (s.setSt b).index = s.index := rfl
@[simp] theorem setSt_sp (s : State) (b : Byte) : (s.setSt b).sp = s.sp := rfl
@[simp] theorem setSt_stack (s : State) (b : Byte) : (s.setSt b).stack = s.stack := rfl
@[simp] theorem setSt_dt (s : State) (b : Byte) : (s.setSt b).dt = s.dt := rfl
@[simp] theorem setSt_st (s : State) (b : Byte) : (s.setSt b).st = b := rfl
@[simp] theorem setSt_fb (s : State) (b : Byte) : (s.setSt b).fb = s.fb := rfl
@[simp] theorem setSt_mem (s : State) (b : Byte) : (s.setSt b).mem = s.mem := rfl
@[simp] theorem setSt_status (s : State) (b : Byte) : (s.setSt b).status = s.status := rfl
@[simp] theorem setSt_faultCause (s : State) (b : Byte) : (s.setSt b).faultCause = s.faultCause := rfl
@[simp] theorem setSt_faultPc (s : State) (b : Byte) : (s.setSt b).faultPc = s.faultPc := rfl
@[simp] theorem setSt_faultInfo (s : State) (b : Byte) : (s.setSt b).faultInfo = s.faultInfo := rfl
@[simp] theorem setSt_started (s : State) (b : Byte) : (s.setSt b).started = s.started := rfl
@[simp] theorem setSt_fbDirty (s : State) (b : Byte) : (s.setSt b).fbDirty = s.fbDirty := rfl
@[simp] theorem setSt_diagUnknown (s : State) (b : Byte) : (s.setSt b).diagUnknown = s.diagUnknown := rfl
@[simp] theorem setSt_diagWord (s : State) (b : Byte) : (s.setSt b).diagWord = s.diagWord := rfl
@[simp] theorem setSt_cfg (s : State) (b : Byte) : (s.setSt b).cfg = s.cfg := rfl
@[simp] theorem setSt_inputs (s : State) (b : Byte) : (s.setSt b).inputs = s.inputs := rfl
@[simp] theorem setSt_tick (s : State) (b : Byte) : (s.setSt b).tick = s.tick := rfl
@[simp] theorem setSt_reg (s : State) (b : Byte) (j : RegIdx) : (s.setSt b).reg j = s.reg j := rfl
@[simp] theorem setSt_byteAt (s : State) (b : Byte) (k : Nat) : (s.setSt b).byteAt k = s.byteAt k := rfl
@[simp] theorem setSt_pixel (s : State) (b : Byte) (p q : Nat) : (s.setSt b).pixel p q = s.pixel p q := rfl
@[simp] theorem setSt_keys (s : State) (b : Byte) : (s.setSt b).keys = s.keys := rfl
@[simp] theorem setSt_rnd (s : State) (b : Byte) : (s.setSt b).rnd = s.rnd := rfl
@[simp] theorem setSt_effAddr (s : State) (b : Byte) (k : Nat) : (s.setSt b).effAddr k = s.effAddr k := rfl

/-! ### `setByte` -/

@[simp] theorem setByte_v (s : State) (a : Nat) (b : Byte) : (s.setByte a b).v = s.v := rfl
@[simp] theorem setByte_pc (s : State) (a : Nat) (b : Byte) : (s.setByte a b).pc = s.pc := rfl
@[simp] theorem setByte_index (s : State) (a : Nat) (b : Byte) : (s.setByte a b).index = s.index := rfl
@[simp] theorem setByte_sp (s : State) (a : Nat) (b : Byte) : (s.setByte a b).sp = s.sp := rfl
@[simp] theorem setByte_stack (s : State) (a : Nat) (b : Byte) : (s.setByte a b).stack = s.stack := rfl
@[simp] theorem setByte_dt (s : State) (a : Nat) (b : Byte) : (s.setByte a b).dt = s.dt := rfl
@[simp] theorem setByte_st (s : State) (a : Nat) (b : Byte) : (s.setByte a b).st = s.st := rfl
@[simp] theorem setByte_fb (s : State) (a : Nat) (b : Byte) : (s.setByte a b).fb = s.fb := rfl
@[simp] theorem setByte_mem (s : State) (a : Nat) (b : Byte) : (s.setByte a b).mem = Memory.write s.cfg s.mem a b := rfl
@[simp] theorem setByte_status (s : State) (a : Nat) (b : Byte) : (s.setByte a b).status = s.status := rfl
@[simp] theorem setByte_faultCause (s : State) (a : Nat) (b : Byte) : (s.setByte a b).faultCause = s.faultCause := rfl
@[simp] theorem setByte_faultPc (s : State) (a : Nat) (b : Byte) : (s.setByte a b).faultPc = s.faultPc := rfl
@[simp] theorem setByte_faultInfo (s : State) (a : Nat) (b : Byte) : (s.setByte a b).faultInfo = s.faultInfo := rfl
@[simp] theorem setByte_started (s : State) (a : Nat) (b : Byte) : (s.setByte a b).started = s.started := rfl
@[simp] theorem setByte_fbDirty (s : State) (a : Nat) (b : Byte) : (s.setByte a b).fbDirty = s.fbDirty := rfl
@[simp] theorem setByte_diagUnknown (s : State) (a : Nat) (b : Byte) : (s.setByte a b).diagUnknown = s.diagUnknown := rfl
@[simp] theorem setByte_diagWord (s : State) (a : Nat) (b : Byte) : (s.setByte a b).diagWord = s.diagWord := rfl
@[simp] theorem setByte_cfg (s : State) (a : Nat) (b : Byte) : (s.setByte a b).cfg = s.cfg := rfl
@[simp] theorem setByte_inputs (s : State) (a : Nat) (b : Byte) : (s.setByte a b).inputs = s.inputs := rfl
@[simp] theorem setByte_tick (s : State) (a : Nat) (b : Byte) : (s.setByte a b).tick = s.tick := rfl
@[simp] theorem setByte_reg (s : State) (a : Nat) (b : Byte) (j : RegIdx) : (s.setByte a b).reg j = s.reg j := rfl
@[simp] theorem setByte_pixel (s : State) (a : Nat) (b : Byte) (p q : Nat) : (s.setByte a b).pixel p q = s.pixel p q := rfl
@[simp] theorem setByte_keys (s : State) (a : Nat) (b : Byte) : (s.setByte a b).keys = s.keys := rfl
@[simp] theorem setByte_rnd (s : State) (a : Nat) (b : Byte) : (s.setByte a b).rnd = s.rnd := rfl
@[simp] theorem setByte_effAddr (s : State) (a : Nat) (b : Byte) (k : Nat) : (s.setByte a b).effAddr k = s.effAddr k := rfl

/-! ### `togglePixel` -/

@[simp] theorem togglePixel_v (s : State) (r c : Nat) : (s.togglePixel r c).v = s.v := rfl
@[simp] theorem togglePixel_pc (s : State) (r c : Nat) : (s.togglePixel r c).pc = s.pc := rfl
@[simp] theorem togglePixel_index (s : State) (r c : Nat) : (s.togglePixel r c).index = s.index := rfl
@[simp] theorem togglePixel_sp (s : State) (r c : Nat) : (s.togglePixel r c).sp = s.sp := rfl
@[simp] theorem togglePixel_stack (s : State) (r c : Nat) : (s.togglePixel r c).stack = s.stack := rfl
@[simp] theorem togglePixel_dt (s : State) (r c : Nat) : (s.togglePixel r c).dt = s.dt := rfl
@[simp] theorem togglePixel_st (s : State) (r c : Nat) : (s.togglePixel r c).st = s.st := rfl
@[simp] theorem togglePixel_fb (s : State) (r c : Nat) : (s.togglePixel r c).fb = s.fb.modify (r * s.cfg.fbW + c) (fun p => !p) := rfl
@[simp] theorem togglePixel_mem (s : State) (r c : Nat) : (s.togglePixel r c).mem = s.mem := rfl
@[simp] theorem togglePixel_status (s : State) (r c : Nat) : (s.togglePixel r c).status = s.status := rfl
@[simp] theorem togglePixel_faultCause (s : State) (r c : Nat) : (s.togglePixel r c).faultCause = s.faultCause := rfl
@[simp] theorem togglePixel_faultPc (s : State) (r c : Nat) : (s.togglePixel r c).faultPc = s.faultPc := rfl
@[simp] theorem togglePixel_faultInfo (s : State) (r c : Nat) : (s.togglePixel r c).faultInfo = s.faultInfo := rfl
@[simp] theorem togglePixel_started (s : State) (r c : Nat) : (s.togglePixel r c).started = s.started := rfl
@[simp] theorem togglePixel_fbDirty (s : State) (r c : Nat) : (s.togglePixel r c).fbDirty = s.fbDirty := rfl
@[simp] theorem togglePixel_diagUnknown (s : State) (r c : Nat) : (s.togglePixel r c).diagUnknown = s.diagUnknown := rfl
@[simp] theorem togglePixel_diagWord (s : State) (r c : Nat) : (s.togglePixel r c).diagWord = s.diagWord := rfl
@[simp] theorem togglePixel_cfg (s : State) (r c : Nat) : (s.togglePixel r c).cfg = s.cfg := rfl
@[simp] theorem togglePixel_inputs (s : State) (r c : Nat) : (s.togglePixel r c).inputs = s.inputs := rfl
@[simp] theorem togglePixel_tick (s : State) (r c : Nat) : (s.togglePixel r c).tick = s.tick := rfl
@[simp] theorem togglePixel_reg (s : State) (r c : Nat) (j : RegIdx) : (s.togglePixel r c).reg j = s.reg j := rfl
@[simp] theorem togglePixel_byteAt (s : State) (r c : Nat) (k : Nat) : (s.togglePixel r c).byteAt k = s.byteAt k := rfl
@[simp] theorem togglePixel_keys (s : State) (r c : Nat) : (s.togglePixel r c).keys = s.keys := rfl
@[simp] theorem togglePixel_rnd (s : State) (r c : Nat) : (s.togglePixel r c).rnd = s.rnd := rfl
@[simp] theorem togglePixel_effAddr (s : State) (r c : Nat) (k : Nat) : (s.togglePixel r c).effAddr k = s.effAddr k := rfl

/-! ### `clearFb` -/

@[simp] theorem clearFb_v (s : State) : (s.clearFb).v = s.v := rfl
@[simp] theorem clearFb_pc (s : State) : (s.clearFb).pc = s.pc := rfl
@[simp] theorem clearFb_index (s : State) : (s.clearFb).index = s.index := rfl
@[simp] theorem clearFb_sp (s : State) : (s.clearFb).sp = s.sp := rfl
@[simp] theorem clearFb_stack (s : State) : (s.clearFb).stack = s.stack := rfl
@[simp] theorem clearFb_dt (s : State) : (s.clearFb).dt = s.dt := rfl
@[simp] theorem clearFb_st (s : State) : (s.clearFb).st = s.st := rfl
@[simp] theorem clearFb_fb (s : State) : (s.clearFb).fb = List.replicate (s.cfg.fbH * s.cfg.fbW) false := rfl
@[simp] theorem clearFb_mem (s : State) : (s.clearFb).mem = s.mem := rfl
@[simp] theorem clearFb_status (s : State) : (s.clearFb).status = s.status := rfl
@[simp] theorem clearFb_faultCause (s : State) : (s.clearFb).faultCause = s.faultCause := rfl
@[simp] theorem clearFb_faultPc (s : State) : (s.clearFb).faultPc = s.faultPc := rfl
@[simp] theorem clearFb_faultInfo (s : State) : (s.clearFb).faultInfo = s.faultInfo := rfl
@[simp] theorem clearFb_started (s : State) : (s.clearFb).started = s.started := rfl
@[simp] theorem clearFb_fbDirty (s : State) : (s.clearFb).fbDirty = s.fbDirty := rfl
@[simp] theorem clearFb_diagUnknown (s : State) : (s.clearFb).diagUnknown = s.diagUnknown := rfl
@[simp] theorem clearFb_diagWord (s : State) : (s.clearFb).diagWord = s.diagWord := rfl
@[simp] theorem clearFb_cfg (s : State) : (s.clearFb).cfg = s.cfg := rfl
@[simp] theorem clearFb_inputs (s : State) : (s.clearFb).inputs = s.inputs := rfl
@[simp] theorem clearFb_tick (s : State) : (s.clearFb).tick = s.tick := rfl
@[simp] theorem clearFb_reg (s : State) (j : RegIdx) : (s.clearFb).reg j = s.reg j := rfl
@[simp] theorem clearFb_byteAt (s : State) (k : Nat) : (s.clearFb).byteAt k = s.byteAt k := rfl
@[simp] theorem clearFb_keys (s : State) : (s.clearFb).keys = s.keys := rfl
@[simp] theorem clearFb_rnd (s : State) : (s.clearFb).rnd = s.rnd := rfl
@[simp] theorem clearFb_effAddr (s : State) (k : Nat) : (s.clearFb).effAddr k = s.effAddr k := rfl

/-! ### `takeFault` -/

@[simp] theorem takeFault_v (s : State) (e : Raise) : (s.takeFault e).v = s.v := rfl
@[simp] theorem takeFault_pc (s : State) (e : Raise) : (s.takeFault e).pc = s.pc := rfl
@[simp] theorem takeFault_index (s : State) (e : Raise) : (s.takeFault e).index = s.index := rfl
@[simp] theorem takeFault_sp (s : State) (e : Raise) : (s.takeFault e).sp = s.sp := rfl
@[simp] theorem takeFault_stack (s : State) (e : Raise) : (s.takeFault e).stack = s.stack := rfl
@[simp] theorem takeFault_dt (s : State) (e : Raise) : (s.takeFault e).dt = s.dt := rfl
@[simp] theorem takeFault_st (s : State) (e : Raise) : (s.takeFault e).st = s.st := rfl
@[simp] theorem takeFault_fb (s : State) (e : Raise) : (s.takeFault e).fb = s.fb := rfl
@[simp] theorem takeFault_mem (s : State) (e : Raise) : (s.takeFault e).mem = s.mem := rfl
@[simp] theorem takeFault_status (s : State) (e : Raise) : (s.takeFault e).status = .faulted := rfl
@[simp] theorem takeFault_faultCause (s : State) (e : Raise) : (s.takeFault e).faultCause = some e.cause := rfl
@[simp] theorem takeFault_faultPc (s : State) (e : Raise) : (s.takeFault e).faultPc = s.pc := rfl
@[simp] theorem takeFault_faultInfo (s : State) (e : Raise) : (s.takeFault e).faultInfo = BitVec.ofNat 17 e.info := rfl
@[simp] theorem takeFault_started (s : State) (e : Raise) : (s.takeFault e).started = s.started := rfl
@[simp] theorem takeFault_fbDirty (s : State) (e : Raise) : (s.takeFault e).fbDirty = false := rfl
@[simp] theorem takeFault_diagUnknown (s : State) (e : Raise) : (s.takeFault e).diagUnknown = false := rfl
@[simp] theorem takeFault_diagWord (s : State) (e : Raise) : (s.takeFault e).diagWord = s.diagWord := rfl
@[simp] theorem takeFault_cfg (s : State) (e : Raise) : (s.takeFault e).cfg = s.cfg := rfl
@[simp] theorem takeFault_inputs (s : State) (e : Raise) : (s.takeFault e).inputs = s.inputs := rfl
@[simp] theorem takeFault_tick (s : State) (e : Raise) : (s.takeFault e).tick = s.tick := rfl
@[simp] theorem takeFault_reg (s : State) (e : Raise) (j : RegIdx) : (s.takeFault e).reg j = s.reg j := rfl
@[simp] theorem takeFault_byteAt (s : State) (e : Raise) (k : Nat) : (s.takeFault e).byteAt k = s.byteAt k := rfl
@[simp] theorem takeFault_pixel (s : State) (e : Raise) (p q : Nat) : (s.takeFault e).pixel p q = s.pixel p q := rfl
@[simp] theorem takeFault_keys (s : State) (e : Raise) : (s.takeFault e).keys = s.keys := rfl
@[simp] theorem takeFault_rnd (s : State) (e : Raise) : (s.takeFault e).rnd = s.rnd := rfl
@[simp] theorem takeFault_effAddr (s : State) (e : Raise) (k : Nat) : (s.takeFault e).effAddr k = s.effAddr k := rfl

/-! ### `abort` -/

@[simp] theorem abort_v (s : State) (e : Raise) : (s.abort e).v = s.v := rfl
@[simp] theorem abort_pc (s : State) (e : Raise) : (s.abort e).pc = s.pc - 2 := rfl
@[simp] theorem abort_index (s : State) (e : Raise) : (s.abort e).index = s.index := rfl
@[simp] theorem abort_sp (s : State) (e : Raise) : (s.abort e).sp = s.sp := rfl
@[simp] theorem abort_stack (s : State) (e : Raise) : (s.abort e).stack = s.stack := rfl
@[simp] theorem abort_dt (s : State) (e : Raise) : (s.abort e).dt = s.dt := rfl
@[simp] theorem abort_st (s : State) (e : Raise) : (s.abort e).st = s.st := rfl
@[simp] theorem abort_fb (s : State) (e : Raise) : (s.abort e).fb = s.fb := rfl
@[simp] theorem abort_mem (s : State) (e : Raise) : (s.abort e).mem = s.mem := rfl
@[simp] theorem abort_status (s : State) (e : Raise) : (s.abort e).status = .faulted := rfl
@[simp] theorem abort_faultCause (s : State) (e : Raise) : (s.abort e).faultCause = some e.cause := rfl
@[simp] theorem abort_faultPc (s : State) (e : Raise) : (s.abort e).faultPc = s.pc - 2 := rfl
@[simp] theorem abort_faultInfo (s : State) (e : Raise) : (s.abort e).faultInfo = BitVec.ofNat 17 e.info := rfl
@[simp] theorem abort_started (s : State) (e : Raise) : (s.abort e).started = s.started := rfl
@[simp] theorem abort_fbDirty (s : State) (e : Raise) : (s.abort e).fbDirty = false := rfl
@[simp] theorem abort_diagUnknown (s : State) (e : Raise) : (s.abort e).diagUnknown = false := rfl
@[simp] theorem abort_diagWord (s : State) (e : Raise) : (s.abort e).diagWord = s.diagWord := rfl
@[simp] theorem abort_cfg (s : State) (e : Raise) : (s.abort e).cfg = s.cfg := rfl
@[simp] theorem abort_inputs (s : State) (e : Raise) : (s.abort e).inputs = s.inputs := rfl
@[simp] theorem abort_tick (s : State) (e : Raise) : (s.abort e).tick = s.tick := rfl
@[simp] theorem abort_reg (s : State) (e : Raise) (j : RegIdx) : (s.abort e).reg j = s.reg j := rfl
@[simp] theorem abort_byteAt (s : State) (e : Raise) (k : Nat) : (s.abort e).byteAt k = s.byteAt k := rfl
@[simp] theorem abort_pixel (s : State) (e : Raise) (p q : Nat) : (s.abort e).pixel p q = s.pixel p q := rfl
@[simp] theorem abort_keys (s : State) (e : Raise) : (s.abort e).keys = s.keys := rfl
@[simp] theorem abort_rnd (s : State) (e : Raise) : (s.abort e).rnd = s.rnd := rfl
@[simp] theorem abort_effAddr (s : State) (e : Raise) (k : Nat) : (s.abort e).effAddr k = s.effAddr k := rfl

/-! ### `afterFetch` -/

@[simp] theorem afterFetch_v (s : State) (w : Word) : (s.afterFetch w).v = s.v := rfl
@[simp] theorem afterFetch_pc (s : State) (w : Word) : (s.afterFetch w).pc = s.pc + 2 := rfl
@[simp] theorem afterFetch_index (s : State) (w : Word) : (s.afterFetch w).index = s.index := rfl
@[simp] theorem afterFetch_sp (s : State) (w : Word) : (s.afterFetch w).sp = s.sp := rfl
@[simp] theorem afterFetch_stack (s : State) (w : Word) : (s.afterFetch w).stack = s.stack := rfl
@[simp] theorem afterFetch_dt (s : State) (w : Word) : (s.afterFetch w).dt = s.dt := rfl
@[simp] theorem afterFetch_st (s : State) (w : Word) : (s.afterFetch w).st = s.st := rfl
@[simp] theorem afterFetch_fb (s : State) (w : Word) : (s.afterFetch w).fb = s.fb := rfl
@[simp] theorem afterFetch_mem (s : State) (w : Word) : (s.afterFetch w).mem = s.mem := rfl
@[simp] theorem afterFetch_status (s : State) (w : Word) : (s.afterFetch w).status = s.status := rfl
@[simp] theorem afterFetch_faultCause (s : State) (w : Word) : (s.afterFetch w).faultCause = s.faultCause := rfl
@[simp] theorem afterFetch_faultPc (s : State) (w : Word) : (s.afterFetch w).faultPc = s.faultPc := rfl
@[simp] theorem afterFetch_faultInfo (s : State) (w : Word) : (s.afterFetch w).faultInfo = s.faultInfo := rfl
@[simp] theorem afterFetch_started (s : State) (w : Word) : (s.afterFetch w).started = true := rfl
@[simp] theorem afterFetch_fbDirty (s : State) (w : Word) : (s.afterFetch w).fbDirty = s.fbDirty := rfl
@[simp] theorem afterFetch_diagUnknown (s : State) (w : Word) : (s.afterFetch w).diagUnknown = s.diagUnknown := rfl
@[simp] theorem afterFetch_diagWord (s : State) (w : Word) : (s.afterFetch w).diagWord = w := rfl
@[simp] theorem afterFetch_cfg (s : State) (w : Word) : (s.afterFetch w).cfg = s.cfg := rfl
@[simp] theorem afterFetch_inputs (s : State) (w : Word) : (s.afterFetch w).inputs = s.inputs := rfl
@[simp] theorem afterFetch_tick (s : State) (w : Word) : (s.afterFetch w).tick = s.tick := rfl
@[simp] theorem afterFetch_reg (s : State) (w : Word) (j : RegIdx) : (s.afterFetch w).reg j = s.reg j := rfl
@[simp] theorem afterFetch_byteAt (s : State) (w : Word) (k : Nat) : (s.afterFetch w).byteAt k = s.byteAt k := rfl
@[simp] theorem afterFetch_pixel (s : State) (w : Word) (p q : Nat) : (s.afterFetch w).pixel p q = s.pixel p q := rfl
@[simp] theorem afterFetch_keys (s : State) (w : Word) : (s.afterFetch w).keys = s.keys := rfl
@[simp] theorem afterFetch_rnd (s : State) (w : Word) : (s.afterFetch w).rnd = s.rnd := rfl
@[simp] theorem afterFetch_effAddr (s : State) (w : Word) (k : Nat) : (s.afterFetch w).effAddr k = s.effAddr k := rfl

/-! ### `fetchFault` -/

@[simp] theorem fetchFault_v (s : State) (e : Raise) : (s.fetchFault e).v = s.v := rfl
@[simp] theorem fetchFault_pc (s : State) (e : Raise) : (s.fetchFault e).pc = s.pc := rfl
@[simp] theorem fetchFault_index (s : State) (e : Raise) : (s.fetchFault e).index = s.index := rfl
@[simp] theorem fetchFault_sp (s : State) (e : Raise) : (s.fetchFault e).sp = s.sp := rfl
@[simp] theorem fetchFault_stack (s : State) (e : Raise) : (s.fetchFault e).stack = s.stack := rfl
@[simp] theorem fetchFault_dt (s : State) (e : Raise) : (s.fetchFault e).dt = s.dt := rfl
@[simp] theorem fetchFault_st (s : State) (e : Raise) : (s.fetchFault e).st = s.st := rfl
@[simp] theorem fetchFault_fb (s : State) (e : Raise) : (s.fetchFault e).fb = s.fb := rfl
@[simp] theorem fetchFault_mem (s : State) (e : Raise) : (s.fetchFault e).mem = s.mem := rfl
@[simp] theorem fetchFault_status (s : State) (e : Raise) : (s.fetchFault e).status = .faulted := rfl
@[simp] theorem fetchFault_faultCause (s : State) (e : Raise) : (s.fetchFault e).faultCause = some e.cause := rfl
@[simp] theorem fetchFault_faultPc (s : State) (e : Raise) : (s.fetchFault e).faultPc = s.pc := rfl
@[simp] theorem fetchFault_faultInfo (s : State) (e : Raise) : (s.fetchFault e).faultInfo = BitVec.ofNat 17 e.info := rfl
@[simp] theorem fetchFault_started (s : State) (e : Raise) : (s.fetchFault e).started = true := rfl
@[simp] theorem fetchFault_fbDirty (s : State) (e : Raise) : (s.fetchFault e).fbDirty = false := rfl
@[simp] theorem fetchFault_diagUnknown (s : State) (e : Raise) : (s.fetchFault e).diagUnknown = false := rfl
@[simp] theorem fetchFault_diagWord (s : State) (e : Raise) : (s.fetchFault e).diagWord = 0 := rfl
@[simp] theorem fetchFault_cfg (s : State) (e : Raise) : (s.fetchFault e).cfg = s.cfg := rfl
@[simp] theorem fetchFault_inputs (s : State) (e : Raise) : (s.fetchFault e).inputs = s.inputs := rfl
@[simp] theorem fetchFault_tick (s : State) (e : Raise) : (s.fetchFault e).tick = s.tick := rfl
@[simp] theorem fetchFault_reg (s : State) (e : Raise) (j : RegIdx) : (s.fetchFault e).reg j = s.reg j := rfl
@[simp] theorem fetchFault_byteAt (s : State) (e : Raise) (k : Nat) : (s.fetchFault e).byteAt k = s.byteAt k := rfl
@[simp] theorem fetchFault_pixel (s : State) (e : Raise) (p q : Nat) : (s.fetchFault e).pixel p q = s.pixel p q := rfl
@[simp] theorem fetchFault_keys (s : State) (e : Raise) : (s.fetchFault e).keys = s.keys := rfl
@[simp] theorem fetchFault_rnd (s : State) (e : Raise) : (s.fetchFault e).rnd = s.rnd := rfl
@[simp] theorem fetchFault_effAddr (s : State) (e : Raise) (k : Nat) : (s.fetchFault e).effAddr k = s.effAddr k := rfl

/-! ### `complete` -/

@[simp] theorem complete_v (s : State) (i : Instr) : (s.complete i).v = s.v := rfl
@[simp] theorem complete_pc (s : State) (i : Instr) : (s.complete i).pc = s.pc := rfl
@[simp] theorem complete_index (s : State) (i : Instr) : (s.complete i).index = s.index := rfl
@[simp] theorem complete_sp (s : State) (i : Instr) : (s.complete i).sp = s.sp := rfl
@[simp] theorem complete_stack (s : State) (i : Instr) : (s.complete i).stack = s.stack := rfl
@[simp] theorem complete_dt (s : State) (i : Instr) : (s.complete i).dt = countDown s.dt := rfl
@[simp] theorem complete_st (s : State) (i : Instr) : (s.complete i).st = countDown s.st := rfl
@[simp] theorem complete_fb (s : State) (i : Instr) : (s.complete i).fb = s.fb := rfl
@[simp] theorem complete_mem (s : State) (i : Instr) : (s.complete i).mem = s.mem := rfl
@[simp] theorem complete_status (s : State) (i : Instr) : (s.complete i).status = s.status := rfl
@[simp] theorem complete_faultCause (s : State) (i : Instr) : (s.complete i).faultCause = s.faultCause := rfl
@[simp] theorem complete_faultPc (s : State) (i : Instr) : (s.complete i).faultPc = s.faultPc := rfl
@[simp] theorem complete_faultInfo (s : State) (i : Instr) : (s.complete i).faultInfo = s.faultInfo := rfl
@[simp] theorem complete_started (s : State) (i : Instr) : (s.complete i).started = s.started := rfl
@[simp] theorem complete_fbDirty (s : State) (i : Instr) : (s.complete i).fbDirty = draws i := rfl
@[simp] theorem complete_diagUnknown (s : State) (i : Instr) : (s.complete i).diagUnknown = isUnknown i := rfl
@[simp] theorem complete_diagWord (s : State) (i : Instr) : (s.complete i).diagWord = s.diagWord := rfl
@[simp] theorem complete_cfg (s : State) (i : Instr) : (s.complete i).cfg = s.cfg := rfl
@[simp] theorem complete_inputs (s : State) (i : Instr) : (s.complete i).inputs = s.inputs := rfl
@[simp] theorem complete_tick (s : State) (i : Instr) : (s.complete i).tick = s.tick := rfl
@[simp] theorem complete_reg (s : State) (i : Instr) (j : RegIdx) : (s.complete i).reg j = s.reg j := rfl
@[simp] theorem complete_byteAt (s : State) (i : Instr) (k : Nat) : (s.complete i).byteAt k = s.byteAt k := rfl
@[simp] theorem complete_pixel (s : State) (i : Instr) (p q : Nat) : (s.complete i).pixel p q = s.pixel p q := rfl
@[simp] theorem complete_keys (s : State) (i : Instr) : (s.complete i).keys = s.keys := rfl
@[simp] theorem complete_rnd (s : State) (i : Instr) : (s.complete i).rnd = s.rnd := rfl
@[simp] theorem complete_effAddr (s : State) (i : Instr) (k : Nat) : (s.complete i).effAddr k = s.effAddr k := rfl

/-! ### `nextInput` -/

@[simp] theorem nextInput_v (s : State) : (s.nextInput).v = s.v := rfl
@[simp] theorem nextInput_pc (s : State) : (s.nextInput).pc = s.pc := rfl
@[simp] theorem nextInput_index (s : State) : (s.nextInput).index = s.index := rfl
@[simp] theorem nextInput_sp (s : State) : (s.nextInput).sp = s.sp := rfl
@[simp] theorem nextInput_stack (s : State) : (s.nextInput).stack = s.stack := rfl
@[simp] theorem nextInput_dt (s : State) : (s.nextInput).dt = s.dt := rfl
@[simp] theorem nextInput_st (s : State) : (s.nextInput).st = s.st := rfl
@[simp] theorem nextInput_fb (s : State) : (s.nextInput).fb = s.fb := rfl
@[simp] theorem nextInput_mem (s : State) : (s.nextInput).mem = s.mem := rfl
@[simp] theorem nextInput_status (s : State) : (s.nextInput).status = s.status := rfl
@[simp] theorem nextInput_faultCause (s : State) : (s.nextInput).faultCause = s.faultCause := rfl
@[simp] theorem nextInput_faultPc (s : State) : (s.nextInput).faultPc = s.faultPc := rfl
@[simp] theorem nextInput_faultInfo (s : State) : (s.nextInput).faultInfo = s.faultInfo := rfl
@[simp] theorem nextInput_started (s : State) : (s.nextInput).started = s.started := rfl
@[simp] theorem nextInput_fbDirty (s : State) : (s.nextInput).fbDirty = s.fbDirty := rfl
@[simp] theorem nextInput_diagUnknown (s : State) : (s.nextInput).diagUnknown = s.diagUnknown := rfl
@[simp] theorem nextInput_diagWord (s : State) : (s.nextInput).diagWord = s.diagWord := rfl
@[simp] theorem nextInput_cfg (s : State) : (s.nextInput).cfg = s.cfg := rfl
@[simp] theorem nextInput_inputs (s : State) : (s.nextInput).inputs = s.inputs.tail := rfl
@[simp] theorem nextInput_tick (s : State) : (s.nextInput).tick = s.tick + 1 := rfl
@[simp] theorem nextInput_reg (s : State) (j : RegIdx) : (s.nextInput).reg j = s.reg j := rfl
@[simp] theorem nextInput_byteAt (s : State) (k : Nat) : (s.nextInput).byteAt k = s.byteAt k := rfl
@[simp] theorem nextInput_pixel (s : State) (p q : Nat) : (s.nextInput).pixel p q = s.pixel p q := rfl
@[simp] theorem nextInput_effAddr (s : State) (k : Nat) : (s.nextInput).effAddr k = s.effAddr k := rfl

end Sys2Proof.Machine
end

