-- ==== Sys2Proof/Laws/Memory.lean ====
section
/-! SUPPORT. Memory: a read after a write, and the canonical form every memory operation keeps (20_memory.md R60 to R62). -/

namespace Sys2Proof.Machine

theorem lookup_put (m : Memory) (a k : Nat) (b : Byte) :
    Memory.lookup (Memory.put m a b) k = if k = a then some b else Memory.lookup m k := by
  induction m with
  | nil => grind [Memory.lookup, Memory.put]
  | cons p m ih => grind [Memory.lookup, Memory.put]

theorem lookup_drop (m : Memory) (a k : Nat) :
    Memory.lookup (Memory.drop m a) k = if k = a then none else Memory.lookup m k := by
  induction m with
  | nil => grind [Memory.lookup, Memory.drop]
  | cons p m ih => grind [Memory.lookup, Memory.drop]

/-- What a write does to every byte. -/
theorem read_write (c : Config) (m : Memory) (a k : Nat) (b : Byte) :
    Memory.read c (Memory.write c m a b) k = if k = a then b else Memory.read c m k := by
  unfold Memory.read Memory.write
  split <;> rename_i h <;> simp only [lookup_put, lookup_drop] <;> split <;> simp_all

theorem mem_put {m : Memory} {a : Nat} {b : Byte} {p : Host.Cell} (h : p ∈ Memory.put m a b) :
    p = (a, b) ∨ p ∈ m := by
  induction m with
  | nil => simpa [Memory.put] using h
  | cons q m ih => grind [Memory.put]

theorem mem_drop {m : Memory} {a : Nat} {p : Host.Cell} (h : p ∈ Memory.drop m a) : p ∈ m ∧ p.1 ≠ a := by
  induction m with
  | nil => simp [Memory.drop] at h
  | cons q m ih => grind [Memory.drop]

theorem pairwise_put {m : Memory} (a : Nat) (b : Byte) (h : m.Pairwise (fun p q => p.1 < q.1)) :
    (Memory.put m a b).Pairwise (fun p q => p.1 < q.1) := by
  induction m with
  | nil => simp [Memory.put]
  | cons q m ih =>
    obtain ⟨hq, hm⟩ := List.pairwise_cons.mp h
    unfold Memory.put
    split
    · refine List.pairwise_cons.mpr ⟨fun p hp => ?_, h⟩
      rcases List.mem_cons.mp hp with rfl | hp
      · assumption
      · have := hq p hp; omega
    · split
      · rename_i hqa
        exact List.pairwise_cons.mpr ⟨fun p hp => by have := hq p hp; simp only at hqa ⊢; omega, hm⟩
      · refine List.pairwise_cons.mpr ⟨fun p hp => ?_, ih hm⟩
        rcases mem_put hp with rfl | hp
        · simp only; omega
        · exact hq p hp

theorem pairwise_drop {m : Memory} (a : Nat) (h : m.Pairwise (fun p q => p.1 < q.1)) :
    (Memory.drop m a).Pairwise (fun p q => p.1 < q.1) := by
  induction m with
  | nil => simp [Memory.drop]
  | cons q m ih =>
    obtain ⟨hq, hm⟩ := List.pairwise_cons.mp h
    unfold Memory.drop
    split
    · exact ih hm
    · exact List.pairwise_cons.mpr ⟨fun p hp => hq p (mem_drop hp).1, ih hm⟩

/-- A write below MEM_SIZE keeps the canonical form. -/
theorem write_wf {c : Config} {m : Memory} {a : Nat} (b : Byte) (h : Memory.wf c m) (ha : a < c.memSize) :
    Memory.wf c (Memory.write c m a b) := by
  unfold Memory.write
  split
  · exact ⟨pairwise_drop a h.1, fun p hp => h.2 p (mem_drop hp).1⟩
  · refine ⟨pairwise_put a b h.1, fun p hp => ?_⟩
    rcases mem_put hp with rfl | hp
    · exact ⟨ha, by assumption⟩
    · exact h.2 p hp

/-- Memory after reset lists nothing and is canonical. -/
theorem nil_wf (c : Config) : Memory.wf c [] := by simp [Memory.wf]

theorem byteAt_setByte (s : State) (a k : Nat) (b : Byte) :
    (s.setByte a b).byteAt k = if k = a then b else s.byteAt k := read_write s.cfg s.mem a k b

theorem setByte_wf {s : State} {a : Nat} (b : Byte) (h : Memory.wf s.cfg s.mem) (ha : a < s.cfg.memSize) :
    Memory.wf (s.setByte a b).cfg (s.setByte a b).mem := write_wf b h ha

/-- Only memory differs after `setBytes`. -/
theorem setBytes_eq (s : State) (a : Nat) (bs : List Byte) :
    s.setBytes a bs = { s with mem := (s.setBytes a bs).mem } := by
  induction bs generalizing s a with
  | nil => rfl
  | cons b bs ih => rw [State.setBytes, ih]; rfl

/-- What `setBytes` does to every byte. -/
theorem byteAt_setBytes (s : State) (a k : Nat) (bs : List Byte) :
    (s.setBytes a bs).byteAt k = if a ≤ k ∧ k < a + bs.length then bs.getD (k - a) 0 else s.byteAt k := by
  induction bs generalizing s a with
  | nil => simp [State.setBytes]
  | cons b bs ih =>
    rw [State.setBytes, ih, byteAt_setByte]
    by_cases h : k = a
    · subst h; simp
    · by_cases h2 : a + 1 ≤ k
      · obtain ⟨d, rfl⟩ : ∃ d, k = a + 1 + d := ⟨k - (a + 1), by omega⟩
        have : a + 1 + d - a = d + 1 := by omega
        simp only [this, List.getD_cons_succ, List.length_cons, h, if_false]
        have h3 : a + 1 + d - (a + 1) = d := by omega
        simp only [h3]
        congr 1
        simp; omega
      · simp [h, h2]; omega

theorem setBytes_wf {s : State} {a : Nat} (bs : List Byte) (h : Memory.wf s.cfg s.mem) (ha : a + bs.length ≤ s.cfg.memSize) :
    Memory.wf s.cfg (s.setBytes a bs).mem := by
  induction bs generalizing s a with
  | nil => exact h
  | cons b bs ih =>
    simp only [List.length_cons] at ha
    exact ih (s := s.setByte a b) (write_wf (c := s.cfg) b h (by omega)) (by simp; omega)

/-- Stores in range and allowed complete, and do what `setBytes` does (R62). -/
theorem writeBytes_ok (s : State) (a : Nat) (bs : List Byte) (h : a + bs.length ≤ s.cfg.memSize)
    (hr : s.cfg.reservedWrite = .allow ∨ Config.reservedHi < a) : s.writeBytes a bs = .ok (s.setBytes a bs) := by
  induction bs generalizing s a with
  | nil => rfl
  | cons b bs ih =>
    simp only [List.length_cons] at h
    have hw : s.memWrite a b = .ok (s.setByte a b) := by
      unfold State.memWrite
      rw [if_neg (by omega), if_neg]
      rintro ⟨h1, h2⟩
      rcases hr with hr | hr
      · simp [hr] at h1
      · omega
    simp only [State.writeBytes, hw, State.setBytes]
    exact ih _ _ (by simp; omega) (by rcases hr with hr | hr; exacts [.inl hr, .inr (by omega)])

/-- A store into the reserved region is refused first, under RESERVED_WRITE = fault (R62). -/
theorem writeBytes_reserved (s : State) (a : Nat) (b : Byte) (bs : List Byte) (h : a < s.cfg.memSize)
    (hr : s.cfg.reservedWrite = .fault) (ha : a ≤ Config.reservedHi) :
    s.writeBytes a (b :: bs) = .error ⟨.reservedWrite, a⟩ := by
  simp [State.writeBytes, State.memWrite, Nat.not_le.mpr h, hr, ha]

/-- Stores that run past memory report the first address past it (R237). -/
theorem writeBytes_oob (s : State) (a : Nat) (bs : List Byte) (h : s.cfg.memSize < a + bs.length)
    (hb : bs ≠ []) (hr : s.cfg.reservedWrite = .allow ∨ Config.reservedHi < a) :
    s.writeBytes a bs = .error ⟨.writeOob, max a s.cfg.memSize⟩ := by
  induction bs generalizing s a with
  | nil => exact absurd rfl hb
  | cons b bs ih =>
    simp only [List.length_cons] at h
    by_cases ha : s.cfg.memSize ≤ a
    · simp [State.writeBytes, State.memWrite, ha]
    · have hw : s.memWrite a b = .ok (s.setByte a b) := by
        unfold State.memWrite
        rw [if_neg ha, if_neg]
        rintro ⟨h1, h2⟩
        rcases hr with hr | hr
        · simp [hr] at h1
        · omega
      have hbs : bs ≠ [] := by rintro rfl; simp at h; omega
      simp only [State.writeBytes, hw]
      rw [ih _ _ (by simp; omega) hbs (by rcases hr with hr | hr; exacts [.inl hr, .inr (by omega)])]
      simp; omega

/-- Reads in range give the bytes (R61). -/
theorem readBytes_ok (s : State) (a n : Nat) (h : a + n ≤ s.cfg.memSize) :
    s.readBytes a n = .ok ((List.range n).map fun k => s.byteAt (a + k)) := by
  induction n generalizing a with
  | zero => rfl
  | succ n ih =>
    have hm : s.memRead .readOob a = .ok (s.byteAt a) := by unfold State.memRead; rw [if_neg (by omega)]
    simp only [State.readBytes, hm, ih (a + 1) (by omega), List.range_succ_eq_map, List.map_cons, List.map_map]
    congr 2
    apply List.map_congr_left
    intro k _
    simp only [Function.comp_apply, Nat.succ_eq_add_one]
    congr 1; omega

/-- Reads that run past memory report the first address past it (R237). -/
theorem readBytes_oob (s : State) (a n : Nat) (h : s.cfg.memSize < a + n) (hn : 0 < n) :
    s.readBytes a n = .error ⟨.readOob, max a s.cfg.memSize⟩ := by
  induction n generalizing a with
  | zero => omega
  | succ n ih =>
    by_cases ha : s.cfg.memSize ≤ a
    · simp [State.readBytes, State.memRead, ha]
    · have hm : s.memRead .readOob a = .ok (s.byteAt a) := by unfold State.memRead; rw [if_neg ha]
      simp only [State.readBytes, hm]
      rw [ih (a + 1) (by omega) (by omega)]
      simp; omega

end Sys2Proof.Machine
end

