-- ==== Sys2Proof/Laws/Ops.lean ====
section
/-! SUPPORT. What each shared operation can do: registers, stack, faults, fetch, exec and step (10_state.md, 40_cycle.md, 60_exceptions.md). -/

namespace Sys2Proof.Machine

/-! ### Registers -/

/-- What a register write does to every register (R20). -/
theorem reg_setReg (s : State) (i j : RegIdx) (b : Byte) : (s.setReg i b).reg j = if j = i then b else s.reg j := by
  simp only [State.reg, State.setReg, Vector.getElem_set, Fin.ext_iff]
  grind

@[simp] theorem reg_setReg_self (s : State) (i : RegIdx) (b : Byte) : (s.setReg i b).reg i = b := by
  rw [reg_setReg, if_pos rfl]

theorem reg_setReg_ne (s : State) {i j : RegIdx} (b : Byte) (h : j ≠ i) : (s.setReg i b).reg j = s.reg j := by
  rw [reg_setReg, if_neg h]

/-- What a load of registers from V[0] up does to every register (R175). -/
theorem reg_setRegs (s : State) (bs : List Byte) (j : RegIdx) : (s.setRegs bs).reg j = bs.getD j.val (s.reg j) := by
  simp [State.reg, State.setRegs]

/-- The result and the flag, in the order of R142. -/
theorem reg_writeFlagged (s : State) (x j : RegIdx) (r : Flagged) :
    (s.writeFlagged x r).reg j = if j = x then r.result else if j = vf then r.flag else s.reg j := by
  simp only [State.writeFlagged, reg_setReg]

theorem regsUpTo_length (s : State) (x : RegIdx) : (s.regsUpTo x).length = x.val + 1 := by
  have := x.isLt
  simp [State.regsUpTo]

theorem regsUpTo_getD (s : State) (x k : RegIdx) (h : k.val ≤ x.val) : (s.regsUpTo x).getD k.val 0 = s.reg k := by
  have := k.isLt
  simp [State.regsUpTo, State.reg, List.getD_eq_getElem?_getD]
  rw [List.getElem?_take_of_lt (by omega)]
  simp

/-! ### The stack -/

theorem push_ok (s : State) (a : Word) (h : s.sp.val < 16) :
    s.push a = .ok { s with stack := s.stack.set s.sp.val a, sp := ⟨s.sp.val + 1, by omega⟩ } := by
  rw [State.push, dif_pos h]

theorem push_full (s : State) (a : Word) (h : s.sp.val = 16) : s.push a = .error ⟨.stackOverflow, 16⟩ := by
  rw [State.push, dif_neg (by omega), h]

theorem pop_ok (s : State) (h : 0 < s.sp.val) :
    s.pop = .ok (s.stack[s.sp.val - 1]'(by have := s.sp.isLt; omega),
      { s with sp := ⟨s.sp.val - 1, by have := s.sp.isLt; omega⟩ }) := by
  rw [State.pop, dif_pos h]

theorem pop_empty (s : State) (h : s.sp.val = 0) : s.pop = .error ⟨.stackUnderflow, 0⟩ := by
  rw [State.pop, dif_neg (by omega), h]

/-! ### Faults and frames -/

/-- Two states agree on everything a frame speaks of when only registers differ. -/
theorem frame_of_regs {s t : State} {rs : List RegIdx} {ps : List Part} (v : Vector Byte 16)
    (ht : t = { s with v := v }) (h : ∀ j, j ∉ rs → t.reg j = s.reg j) : Frame rs ps s t := by
  subst ht
  exact ⟨h, fun p _ => by cases p <;> simp [Part.same, State.byteAt, State.pixel]⟩

theorem frame_refl (s : State) (rs : List RegIdx) (ps : List Part) : Frame rs ps s s :=
  frame_of_regs s.v rfl fun _ _ => rfl

/-- A handler's raise, whole (R232). -/
theorem abort_faults (s : State) (e : Raise) : Faults e.cause e.info s (s.abort e) := by
  refine ⟨rfl, rfl, rfl, rfl, rfl, rfl, rfl, rfl, fun j _ => by simp, fun p hp => ?_⟩
  cases p <;> simp [Part.same] at hp ⊢

/-! ### exec and step -/

/-- Every handler ends in a next state (R107, R231): nothing stops. -/
theorem exec_next (i : Instr) (s : State) : ∃ t, exec i s = .next t := by
  cases i <;> exact ⟨_, rfl⟩

/-- Everything a step can do (R100, R101, R102): nothing on a faulted block, a fetch fault, or the handler and the step's end. -/
theorem step_cases {s t : State} (h : step s = .next t) :
    (s.status = .faulted ∧ t = s) ∨
    (s.status = .running ∧ ∃ e, s.fetch = .error e ∧ t = (s.fetchFault e).nextInput) ∨
    (s.status = .running ∧ ∃ w u, s.fetch = .ok w ∧ exec (decodeWord w) (s.afterFetch w) = .next u ∧
      t = u.finish (decodeWord w)) := by
  unfold step at h
  cases hs : s.status with
  | faulted => simp only [hs] at h; exact .inl ⟨rfl, (Host.Outcome.next.inj h).symm⟩
  | running =>
    simp only [hs] at h
    cases hf : s.fetch with
    | error e => simp only [hf] at h; exact .inr (.inl ⟨rfl, e, rfl, (Host.Outcome.next.inj h).symm⟩)
    | ok w =>
      obtain ⟨u, hu⟩ := exec_next (decodeWord w) (s.afterFetch w)
      simp only [hf, hu] at h
      exact .inr (.inr ⟨rfl, w, u, rfl, hu, (Host.Outcome.next.inj h).symm⟩)

theorem step_of_exec {s u : State} {w : Word} (hs : s.status = .running) (hf : s.fetch = .ok w)
    (hu : exec (decodeWord w) (s.afterFetch w) = .next u) : step s = .next (u.finish (decodeWord w)) := by
  simp only [step, hs, hf, hu]

/-- A fetch inside memory reads two bytes, the first in bits 15:8 (R102). -/
theorem fetch_ok (s : State) (h : s.pc.toNat + 1 < s.cfg.memSize) :
    s.fetch = .ok (bigEndian (s.byteAt s.pc.toNat) (s.byteAt (s.pc.toNat + 1))) := by
  simp [State.fetch, State.memRead, Nat.not_le.mpr h, Nat.not_le.mpr (show s.pc.toNat < s.cfg.memSize by omega)]

/-- A fetch at any address with both bytes in memory joins them, the first in bits 15:8 (R102). -/
theorem fetch_setPc {t : State} {a : Word} {hi lo : Byte} (h : a.toNat + 1 < t.cfg.memSize) (hhi : t.byteAt a.toNat = hi)
    (hlo : t.byteAt (a.toNat + 1) = lo) : (t.setPc a).fetch = .ok (hi ++ lo) := by
  rw [fetch_ok _ (by simpa using h)]
  simp [bigEndian, hhi, hlo]

/-- A fetch past memory names the first address past it (R102, R233). -/
theorem fetch_oob (s : State) (h : s.cfg.memSize ≤ s.pc.toNat + 1) :
    s.fetch = .error ⟨.fetchOob, if s.cfg.memSize ≤ s.pc.toNat then s.pc.toNat else s.pc.toNat + 1⟩ := by
  by_cases h2 : s.cfg.memSize ≤ s.pc.toNat <;> simp [State.fetch, State.memRead, h, h2]

theorem fetch_error {s : State} {e : Raise} (h : s.fetch = .error e) : s.cfg.memSize ≤ s.pc.toNat + 1 := by
  by_contra hc
  rw [fetch_ok s (by omega)] at h
  cases h

theorem fetch_word {s : State} {w : Word} (h : s.fetch = .ok w) :
    s.pc.toNat + 1 < s.cfg.memSize ∧ w = bigEndian (s.byteAt s.pc.toNat) (s.byteAt (s.pc.toNat + 1)) := by
  by_cases hc : s.pc.toNat + 1 < s.cfg.memSize
  · rw [fetch_ok s hc] at h; exact ⟨hc, (Except.ok.inj h).symm⟩
  · rw [fetch_oob s (by omega)] at h; cases h

/-- The end of a step that did not fault. -/
theorem finish_running {u : State} (i : Instr) (h : u.status = .running) : u.finish i = (u.complete i).nextInput := by
  simp [State.finish, h]

/-- The end of a step that faulted. -/
theorem finish_faulted {u : State} (i : Instr) (h : u.status = .faulted) : u.finish i = u.nextInput := by
  simp [State.finish, h]

@[simp] theorem finish_status (u : State) (i : Instr) : (u.finish i).status = u.status := by
  cases h : u.status <;> simp [State.finish, h]

end Sys2Proof.Machine
end

