-- ==== Sys2Proof/Laws/Display.lean ====
section
/-! SUPPORT. The sprite draw as a sequence of plotted points (44_display.md R191 to R195). -/

namespace Sys2Proof.Machine

/-- One set sprite bit whose position does not fault: the collision test and the toggle on the screen, nothing off it. -/
def plot (s : State) (p : Nat × Nat) : State :=
  if p.1 < s.cfg.fbH ∧ p.2 < s.cfg.fbW then (if s.pixel p.1 p.2 then s.setReg vf 1 else s).togglePixel p.1 p.2 else s

/-- A draw changes VF and the framebuffer's pixels only. -/
structure Plotted (s t : State) : Prop where
  eq : t = { s with v := t.v, fb := t.fb }
  regs : ∀ j, j ≠ vf → t.reg j = s.reg j
  size : t.fb.length = s.fb.length

theorem Plotted.refl (s : State) : Plotted s s := ⟨rfl, fun _ _ => rfl, rfl⟩

theorem Plotted.trans {s t u : State} (h : Plotted s t) (k : Plotted t u) : Plotted s u :=
  ⟨by rw [k.eq, h.eq], fun j hj => (k.regs j hj).trans (h.regs j hj), k.size.trans h.size⟩

theorem Plotted.cfg {s t : State} (h : Plotted s t) : t.cfg = s.cfg := by rw [h.eq]

theorem Plotted.byteAt {s t : State} (h : Plotted s t) (a : Nat) : t.byteAt a = s.byteAt a := by rw [h.eq]; rfl

theorem Plotted.index {s t : State} (h : Plotted s t) : t.index = s.index := by rw [h.eq]

theorem plotted_plot (s : State) (p : Nat × Nat) : Plotted s (plot s p) := by
  unfold plot
  split
  · split
    · exact ⟨rfl, fun j hj => by rw [togglePixel_reg, reg_setReg_ne _ _ hj], by simp⟩
    · exact ⟨rfl, fun j _ => by simp, by simp⟩
  · exact Plotted.refl s

theorem plotted_foldl (ps : List (Nat × Nat)) (s : State) : Plotted s (ps.foldl plot s) := by
  induction ps generalizing s with
  | nil => exact Plotted.refl s
  | cons p ps ih => exact (plotted_plot s p).trans (ih _)

/-- Row-major pixel numbers are unique on the screen (R39). -/
theorem pixelNumber_inj {w r c r' c' : Nat} (hc : c < w) (hc' : c' < w) (h : r * w + c = r' * w + c') : r = r' ∧ c = c' := by
  have h1 : (r * w + c) / w = r := by rw [Nat.mul_comm, Nat.mul_add_div (by omega), Nat.div_eq_of_lt hc, Nat.add_zero]
  have h2 : (r' * w + c') / w = r' := by rw [Nat.mul_comm, Nat.mul_add_div (by omega), Nat.div_eq_of_lt hc', Nat.add_zero]
  have hr : r = r' := by rw [← h1, ← h2, h]
  subst hr
  exact ⟨rfl, by omega⟩

theorem pixelNumber_lt {w h r c : Nat} (hr : r < h) (hc : c < w) : r * w + c < h * w := by
  calc r * w + c < r * w + w := by omega
    _ = (r + 1) * w := by rw [Nat.add_mul, Nat.one_mul]
    _ ≤ h * w := Nat.mul_le_mul_right w hr

/-- What a toggle does to every pixel on the screen. -/
theorem pixel_togglePixel (s : State) {r c r' c' : Nat} (hsize : s.fb.length = s.cfg.fbH * s.cfg.fbW)
    (hr : r < s.cfg.fbH) (hc : c < s.cfg.fbW) (hc' : c' < s.cfg.fbW) :
    (s.togglePixel r c).pixel r' c' = if r' = r ∧ c' = c then !s.pixel r c else s.pixel r' c' := by
  have hin := pixelNumber_lt hr hc
  simp only [State.pixel, State.togglePixel, List.getD_eq_getElem?_getD, List.getElem?_modify]
  by_cases h : r' = r ∧ c' = c
  · obtain ⟨rfl, rfl⟩ := h
    simp [hsize, hin]
  · have hne : ¬ r * s.cfg.fbW + c = r' * s.cfg.fbW + c' := fun e => h ((pixelNumber_inj hc hc' e).imp Eq.symm Eq.symm)
    simp [h, hne]

theorem pixel_plot (s : State) {p : Nat × Nat} {r c : Nat} (hsize : s.fb.length = s.cfg.fbH * s.cfg.fbW)
    (hr : r < s.cfg.fbH) (hc : c < s.cfg.fbW) : (plot s p).pixel r c = (s.pixel r c ^^ decide ((r, c) = p)) := by
  obtain ⟨pr, pc⟩ := p
  unfold plot
  simp only [Prod.mk.injEq]
  split
  · rename_i h
    have key : ∀ s' : State, s'.fb = s.fb → s'.cfg = s.cfg →
        (s'.togglePixel pr pc).pixel r c = (s.pixel r c ^^ decide (r = pr ∧ c = pc)) := by
      intro s' hfb hcfg
      have hp : ∀ a b, s'.pixel a b = s.pixel a b := fun a b => by simp [State.pixel, hfb, hcfg]
      rw [pixel_togglePixel s' (by rw [hfb, hcfg, hsize]) (by rw [hcfg]; exact h.1) (by rw [hcfg]; exact h.2)
        (by rw [hcfg]; exact hc)]
      by_cases he : r = pr ∧ c = pc
      · simp [he, hp]
      · simp [he, hp]
    split <;> exact key _ rfl rfl
  · rename_i h
    have : ¬ (r = pr ∧ c = pc) := by rintro ⟨rfl, rfl⟩; exact h ⟨hr, hc⟩
    simp [this]

/-- Distinct points toggle exactly the pixels on the screen they name (R191). -/
theorem pixel_foldl_plot (ps : List (Nat × Nat)) (hnd : ps.Nodup) (s : State) {r c : Nat}
    (hsize : s.fb.length = s.cfg.fbH * s.cfg.fbW) (hr : r < s.cfg.fbH) (hc : c < s.cfg.fbW) :
    (ps.foldl plot s).pixel r c = (s.pixel r c ^^ decide ((r, c) ∈ ps)) := by
  induction ps generalizing s with
  | nil => simp
  | cons p ps ih =>
    have hp := plotted_plot s p
    obtain ⟨hnp, hnd'⟩ := List.nodup_cons.mp hnd
    rw [List.foldl_cons, ih hnd' _ (by rw [hp.size, hp.cfg, hsize]) (by rw [hp.cfg]; exact hr) (by rw [hp.cfg]; exact hc),
      pixel_plot s hsize hr hc]
    by_cases h1 : (r, c) = p
    · subst h1; simp [hnp]
    · simp [h1]

/-- Distinct points leave VF set exactly when one of them is on the screen and on before, or VF was set to 1 already (R192). -/
theorem vf_foldl_plot (ps : List (Nat × Nat)) (hnd : ps.Nodup) (s : State)
    (hsize : s.fb.length = s.cfg.fbH * s.cfg.fbW) :
    ((∃ p ∈ ps, p.1 < s.cfg.fbH ∧ p.2 < s.cfg.fbW ∧ s.pixel p.1 p.2 = true) → (ps.foldl plot s).reg vf = 1) ∧
    ((¬ ∃ p ∈ ps, p.1 < s.cfg.fbH ∧ p.2 < s.cfg.fbW ∧ s.pixel p.1 p.2 = true) → (ps.foldl plot s).reg vf = s.reg vf) := by
  suffices h : (ps.foldl plot s).reg vf =
      if ∃ p ∈ ps, p.1 < s.cfg.fbH ∧ p.2 < s.cfg.fbW ∧ s.pixel p.1 p.2 = true then 1 else s.reg vf by
    exact ⟨fun hh => by rw [h, if_pos hh], fun hh => by rw [h, if_neg hh]⟩
  induction ps generalizing s with
  | nil => simp
  | cons p ps ih =>
    have hp := plotted_plot s p
    obtain ⟨hnp, hnd'⟩ := List.nodup_cons.mp hnd
    rw [List.foldl_cons, ih hnd' _ (by rw [hp.size, hp.cfg, hsize])]
    have hex : (∃ q ∈ ps, q.1 < (plot s p).cfg.fbH ∧ q.2 < (plot s p).cfg.fbW ∧ (plot s p).pixel q.1 q.2 = true) ↔
        ∃ q ∈ ps, q.1 < s.cfg.fbH ∧ q.2 < s.cfg.fbW ∧ s.pixel q.1 q.2 = true := by
      rw [hp.cfg]
      refine exists_congr fun q => and_congr_right fun hq => and_congr_right fun h1 => and_congr_right fun h2 => ?_
      have hqp : (q.1, q.2) ≠ p := by rintro rfl; exact hnp hq
      rw [pixel_plot s hsize h1 h2]
      simp [hqp]
    have hv : (plot s p).reg vf =
        if p.1 < s.cfg.fbH ∧ p.2 < s.cfg.fbW ∧ s.pixel p.1 p.2 = true then 1 else s.reg vf := by
      unfold plot
      by_cases h1 : p.1 < s.cfg.fbH ∧ p.2 < s.cfg.fbW
      · by_cases h2 : s.pixel p.1 p.2 = true <;> simp [h1, h2]
      · rw [if_neg h1, if_neg (fun h => h1 ⟨h.1, h.2.1⟩)]
    simp only [hex, hv, List.exists_mem_cons_iff]
    by_cases h1 : ∃ q ∈ ps, q.1 < s.cfg.fbH ∧ q.2 < s.cfg.fbW ∧ s.pixel q.1 q.2 = true
    · simp only [h1, if_true, or_true]
    · simp only [h1, if_false, or_false]

/-- The points of one sprite byte: the columns of its set bits. -/
def bytePoints (r xs : Nat) (b : Byte) (cols : List Nat) : List (Nat × Nat) :=
  (cols.filter fun col => b.getLsbD (7 - col)).map fun col => (r, xs + col)

/-- The points of some rows of a sprite. -/
def rowPoints (s : State) (ys xs : Nat) (rows : List Nat) : List (Nat × Nat) :=
  rows.flatMap fun row => bytePoints (ys + row) xs (s.byteAt (s.effAddr row)) spriteCols

/-- A draw of these points raises no SPRITE_EDGE: it clips, or they are all on the screen (R193). -/
def NoEdgeFault (s : State) (ps : List (Nat × Nat)) : Prop :=
  s.cfg.spriteEdge = .clip ∨ ∀ p ∈ ps, p.1 < s.cfg.fbH ∧ p.2 < s.cfg.fbW

theorem drawBit_plot (s : State) (p : Nat × Nat) (h : NoEdgeFault s [p]) : drawBit s p.1 p.2 = .ok (plot s p) := by
  unfold drawBit plot
  by_cases hc : p.1 < s.cfg.fbH ∧ p.2 < s.cfg.fbW
  · rw [if_neg (by omega), if_pos hc]
  · rw [if_pos (by omega), if_neg hc]
    rcases h with h | h
    · simp [h]
    · exact absurd (h p (by simp)) hc

theorem NoEdgeFault.mono {s t : State} {ps qs : List (Nat × Nat)} (h : NoEdgeFault s ps) (hc : t.cfg = s.cfg)
    (hq : ∀ p ∈ qs, p ∈ ps) : NoEdgeFault t qs := by
  rcases h with h | h
  · exact .inl (by rw [hc, h])
  · exact .inr fun p hp => by rw [hc]; exact h p (hq p hp)

theorem drawByte_plot (r xs : Nat) (b : Byte) (cols : List Nat) (s : State)
    (h : NoEdgeFault s (bytePoints r xs b cols)) :
    drawByte r xs b cols s = .ok ((bytePoints r xs b cols).foldl plot s) := by
  induction cols generalizing s with
  | nil => rfl
  | cons col cols ih =>
    unfold drawByte
    by_cases hb : b.getLsbD (7 - col) = true
    · have hpts : bytePoints r xs b (col :: cols) = (r, xs + col) :: bytePoints r xs b cols := by simp [bytePoints, hb]
      rw [hpts] at h ⊢
      have h1 := drawBit_plot s (r, xs + col) (h.mono rfl (by simp))
      simp only at h1
      rw [if_pos hb, h1]
      exact ih _ (h.mono (plotted_plot s _).cfg (fun p hp => List.mem_cons_of_mem _ hp))
    · have hpts : bytePoints r xs b (col :: cols) = bytePoints r xs b cols := by simp [bytePoints, hb]
      rw [hpts] at h ⊢
      rw [if_neg hb]
      exact ih _ h

theorem rowPoints_congr {s t : State} (ys xs : Nat) (rows : List Nat) (h : Plotted s t) :
    rowPoints t ys xs rows = rowPoints s ys xs rows := by
  simp only [rowPoints, h.byteAt, State.effAddr, h.index]

/-- A draw whose rows are all in memory and that raises no SPRITE_EDGE plots its points in order (R191). -/
theorem drawRows_plot (ys xs : Nat) (rows : List Nat) (s : State) (hm : ∀ row ∈ rows, s.effAddr row < s.cfg.memSize)
    (h : NoEdgeFault s (rowPoints s ys xs rows)) :
    drawRows ys xs rows s = .ok ((rowPoints s ys xs rows).foldl plot s) := by
  induction rows generalizing s with
  | nil => rfl
  | cons row rows ih =>
    have hpts : rowPoints s ys xs (row :: rows) =
        bytePoints (ys + row) xs (s.byteAt (s.effAddr row)) spriteCols ++ rowPoints s ys xs rows := by
      simp [rowPoints]
    have hread : s.memRead .readOob (s.effAddr row) = .ok (s.byteAt (s.effAddr row)) := by
      rw [State.memRead, if_neg (Nat.not_le.mpr (hm row (by simp)))]
    rw [hpts] at h
    have hp := plotted_foldl (bytePoints (ys + row) xs (s.byteAt (s.effAddr row)) spriteCols) s
    simp only [drawRows, hread, drawByte_plot _ _ _ _ s (h.mono rfl (fun p hp => List.mem_append_left _ hp)), hpts,
      List.foldl_append]
    rw [← rowPoints_congr ys xs rows hp]
    apply ih
    · intro k hk
      have := hm k (List.mem_cons_of_mem _ hk)
      rw [hp.cfg, State.effAddr, hp.index]
      exact this
    · rw [rowPoints_congr ys xs rows hp]
      exact h.mono hp.cfg (fun p hp => List.mem_append_right _ hp)

/-- The points of a sprite's `n` rows are the positions of its set bits. -/
theorem mem_rowPoints (s : State) (ys xs n r c : Nat) :
    (r, c) ∈ rowPoints s ys xs (List.range n) ↔
      ys ≤ r ∧ r < ys + n ∧ xs ≤ c ∧ c < xs + 8 ∧ (s.byteAt (s.index.toNat + (r - ys))).getLsbD (7 - (c - xs)) = true := by
  simp only [rowPoints, List.mem_flatMap, List.mem_range, bytePoints, List.mem_map, List.mem_filter, Prod.mk.injEq,
    State.effAddr]
  constructor
  · rintro ⟨row, hrow, col, ⟨hcol, hb⟩, rfl, rfl⟩
    have hc8 : col < 8 := by simp [spriteCols] at hcol; omega
    have e1 : ys + row - ys = row := by omega
    have e2 : xs + col - xs = col := by omega
    rw [e1, e2]
    exact ⟨by omega, by omega, by omega, by omega, hb⟩
  · rintro ⟨h1, h2, h3, h4, hb⟩
    refine ⟨r - ys, by omega, c - xs, ⟨?_, hb⟩, by omega, by omega⟩
    have : c - xs < 8 := by omega
    simp [spriteCols]; omega

theorem nodup_bytePoints (r xs : Nat) (b : Byte) : (bytePoints r xs b spriteCols).Nodup := by
  unfold bytePoints
  refine List.Nodup.map (fun a b h => by simpa using h) (List.Nodup.filter _ (by decide))

theorem nodup_rowPoints (s : State) (ys xs : Nat) (rows : List Nat) (h : rows.Nodup) :
    (rowPoints s ys xs rows).Nodup := by
  unfold rowPoints
  refine List.nodup_flatMap.mpr ⟨fun row _ => nodup_bytePoints _ _ _, ?_⟩
  refine List.Pairwise.imp ?_ h
  intro a b hab
  simp only [Function.onFun, List.disjoint_left, bytePoints, List.mem_map, List.mem_filter]
  rintro ⟨r, c⟩ ⟨ca, _, hca⟩ ⟨cb, _, hcb⟩
  simp only [Prod.mk.injEq] at hca hcb
  omega

end Sys2Proof.Machine
end

