-- ==== Sys2Proof/Laws/Encoding.lean ====
section
/-! SUPPORT. The fields of a word and the words of the three formats as numbers (30_encoding.md R82). -/

namespace Sys2Proof

theorem classOf_toNat (w : Word) : (classOf w).toNat = w.toNat / 4096 % 16 := by
  simp [classOf, BitVec.extractLsb'_toNat, Nat.shiftRight_eq_div_pow]

theorem fieldX_val (w : Word) : (fieldX w).val = w.toNat / 256 % 16 := by
  simp [fieldX, Nat.shiftRight_eq_div_pow]

theorem fieldY_val (w : Word) : (fieldY w).val = w.toNat / 16 % 16 := by
  simp [fieldY, Nat.shiftRight_eq_div_pow]

theorem fieldN_toNat (w : Word) : (fieldN w).toNat = w.toNat % 16 := by
  simp [fieldN, BitVec.extractLsb'_toNat, Nat.shiftRight_eq_div_pow]

theorem fieldKK_toNat (w : Word) : (fieldKK w).toNat = w.toNat % 256 := by
  simp [fieldKK, BitVec.extractLsb'_toNat, Nat.shiftRight_eq_div_pow]

theorem fieldNNN_toNat (w : Word) : (fieldNNN w).toNat = w.toNat % 4096 := by
  simp [fieldNNN, BitVec.extractLsb'_toNat, Nat.shiftRight_eq_div_pow]

theorem append_toNat {m n : Nat} (a : BitVec m) (b : BitVec n) : (a ++ b).toNat = a.toNat * 2 ^ n + b.toNat := by
  rw [BitVec.toNat_append, ← Nat.shiftLeft_add_eq_or_of_lt b.isLt, Nat.shiftLeft_eq]

theorem regField_toNat (x : RegIdx) : (regField x).toNat = x.val := by
  simp [regField]

theorem wordXYN_toNat (c : Nibble) (x y : RegIdx) (n : Nibble) :
    (wordXYN c x y n).toNat = c.toNat * 4096 + x.val * 256 + y.val * 16 + n.toNat := by
  simp only [wordXYN, append_toNat, regField_toNat]; omega

theorem wordXKK_toNat (c : Nibble) (x : RegIdx) (kk : Byte) :
    (wordXKK c x kk).toNat = c.toNat * 4096 + x.val * 256 + kk.toNat := by
  simp only [wordXKK, append_toNat, regField_toNat]; omega

theorem wordNNN_toNat (c : Nibble) (nnn : Addr12) : (wordNNN c nnn).toNat = c.toNat * 4096 + nnn.toNat := by
  simp only [wordNNN, append_toNat]; omega

theorem bigEndian_toNat (hi lo : Byte) : (bigEndian hi lo).toNat = hi.toNat * 256 + lo.toNat := by
  simp only [bigEndian, append_toNat]; omega

@[simp] theorem classOf_wordXYN (c : Nibble) (x y : RegIdx) (n : Nibble) : classOf (wordXYN c x y n) = c := by
  apply BitVec.eq_of_toNat_eq
  rw [classOf_toNat, wordXYN_toNat]
  have := c.isLt; have := x.isLt; have := y.isLt; have := n.isLt; omega

@[simp] theorem fieldX_wordXYN (c : Nibble) (x y : RegIdx) (n : Nibble) : fieldX (wordXYN c x y n) = x := by
  apply Fin.ext
  rw [fieldX_val, wordXYN_toNat]
  have := x.isLt; have := y.isLt; have := n.isLt; omega

@[simp] theorem fieldY_wordXYN (c : Nibble) (x y : RegIdx) (n : Nibble) : fieldY (wordXYN c x y n) = y := by
  apply Fin.ext
  rw [fieldY_val, wordXYN_toNat]
  have := y.isLt; have := n.isLt; omega

@[simp] theorem fieldN_wordXYN (c : Nibble) (x y : RegIdx) (n : Nibble) : fieldN (wordXYN c x y n) = n := by
  apply BitVec.eq_of_toNat_eq
  rw [fieldN_toNat, wordXYN_toNat]
  have := n.isLt; omega

@[simp] theorem classOf_wordXKK (c : Nibble) (x : RegIdx) (kk : Byte) : classOf (wordXKK c x kk) = c := by
  apply BitVec.eq_of_toNat_eq
  rw [classOf_toNat, wordXKK_toNat]
  have := c.isLt; have := x.isLt; have := kk.isLt; omega

@[simp] theorem fieldX_wordXKK (c : Nibble) (x : RegIdx) (kk : Byte) : fieldX (wordXKK c x kk) = x := by
  apply Fin.ext
  rw [fieldX_val, wordXKK_toNat]
  have := x.isLt; have := kk.isLt; omega

@[simp] theorem fieldKK_wordXKK (c : Nibble) (x : RegIdx) (kk : Byte) : fieldKK (wordXKK c x kk) = kk := by
  apply BitVec.eq_of_toNat_eq
  rw [fieldKK_toNat, wordXKK_toNat]
  have := kk.isLt; omega

@[simp] theorem classOf_wordNNN (c : Nibble) (nnn : Addr12) : classOf (wordNNN c nnn) = c := by
  apply BitVec.eq_of_toNat_eq
  rw [classOf_toNat, wordNNN_toNat]
  have := c.isLt; have := nnn.isLt; omega

@[simp] theorem fieldNNN_wordNNN (c : Nibble) (nnn : Addr12) : fieldNNN (wordNNN c nnn) = nnn := by
  apply BitVec.eq_of_toNat_eq
  rw [fieldNNN_toNat, wordNNN_toNat]
  have := nnn.isLt; omega

/-- A word is put back together from its class and the other fields. -/
theorem wordXYN_fields (w : Word) : wordXYN (classOf w) (fieldX w) (fieldY w) (fieldN w) = w := by
  apply BitVec.eq_of_toNat_eq
  rw [wordXYN_toNat, classOf_toNat, fieldX_val, fieldY_val, fieldN_toNat]
  have := w.isLt; omega

theorem wordXKK_fields (w : Word) : wordXKK (classOf w) (fieldX w) (fieldKK w) = w := by
  apply BitVec.eq_of_toNat_eq
  rw [wordXKK_toNat, classOf_toNat, fieldX_val, fieldKK_toNat]
  have := w.isLt; omega

theorem wordNNN_fields (w : Word) : wordNNN (classOf w) (fieldNNN w) = w := by
  apply BitVec.eq_of_toNat_eq
  rw [wordNNN_toNat, classOf_toNat, fieldNNN_toNat]
  have := w.isLt; omega

/-- Two bytes of a word, joined, are the word (R63). -/
theorem bigEndian_bytes (w : Word) : bigEndian (w.extractLsb' 8 8) (w.extractLsb' 0 8) = w := by
  apply BitVec.eq_of_toNat_eq
  rw [bigEndian_toNat]
  simp [BitVec.extractLsb'_toNat, Nat.shiftRight_eq_div_pow]
  have := w.isLt; omega

/-! ### The masks of the opcode map (R93) -/

theorem and_F000 (w : Word) : w &&& 0xF000 = wordXYN (classOf w) 0 0 0 := by
  apply BitVec.eq_of_getLsbD_eq
  intro i hi
  unfold wordXYN classOf
  rw [BitVec.getLsbD_append, BitVec.getLsbD_append, BitVec.getLsbD_append]
  interval_cases i <;> simp [regField]
theorem and_F00F (w : Word) : w &&& 0xF00F = wordXYN (classOf w) 0 0 (fieldN w) := by
  apply BitVec.eq_of_getLsbD_eq
  intro i hi
  unfold wordXYN classOf fieldN
  rw [BitVec.getLsbD_append, BitVec.getLsbD_append, BitVec.getLsbD_append]
  interval_cases i <;> simp [regField]
theorem and_F0FF (w : Word) : w &&& 0xF0FF = wordXKK (classOf w) 0 (fieldKK w) := by
  apply BitVec.eq_of_getLsbD_eq
  intro i hi
  unfold wordXKK classOf fieldKK
  rw [BitVec.getLsbD_append, BitVec.getLsbD_append]
  interval_cases i <;> simp [regField]

/-- A row of mask 0xF000 is selected by the class. -/
theorem and_F000_eq (w : Word) (c : Nibble) : w &&& 0xF000 = wordXYN c 0 0 0 ↔ classOf w = c := by
  rw [and_F000]
  exact ⟨fun h => by simpa using congrArg classOf h, fun h => by rw [h]⟩

/-- A row of mask 0xF00F is selected by the class and the sub-nibble. -/
theorem and_F00F_eq (w : Word) (c n : Nibble) : w &&& 0xF00F = wordXYN c 0 0 n ↔ classOf w = c ∧ fieldN w = n := by
  rw [and_F00F]
  exact ⟨fun h => ⟨by simpa using congrArg classOf h, by simpa using congrArg fieldN h⟩, fun h => by rw [h.1, h.2]⟩

/-- A row of mask 0xF0FF is selected by the class and the trailing byte. -/
theorem and_F0FF_eq (w : Word) (c : Nibble) (kk : Byte) :
    w &&& 0xF0FF = wordXKK c 0 kk ↔ classOf w = c ∧ fieldKK w = kk := by
  rw [and_F0FF]
  exact ⟨fun h => ⟨by simpa using congrArg classOf h, by simpa using congrArg fieldKK h⟩, fun h => by rw [h.1, h.2]⟩

/-- A row of mask 0xFFFF is selected by the whole word. -/
theorem and_FFFF (w : Word) : w &&& 0xFFFF = w := by
  apply BitVec.eq_of_getLsbD_eq
  intro i hi
  interval_cases i <;> simp

/-- The no-op space in terms of the fields (R91). -/
theorem inNoOpSpace_iff (w : Word) : inNoOpSpace w = true ↔
    (classOf w = 0x0 ∧ w ≠ 0x00E0 ∧ w ≠ 0x00EE) ∨
    (classOf w = 0x8 ∧ fieldN w ∈ ([0x8, 0x9, 0xA, 0xB, 0xC, 0xD, 0xF] : List Nibble)) ∨
    (classOf w = 0xE ∧ fieldKK w ∉ ([0x9E, 0xA1] : List Byte)) ∨
    (classOf w = 0xF ∧ fieldKK w ∉ ([0x07, 0x0A, 0x15, 0x18, 0x1E, 0x29, 0x33, 0x55, 0x65] : List Byte)) := by
  unfold inNoOpSpace classOf fieldN fieldKK
  simp only [Bool.or_eq_true, Bool.and_eq_true, beq_iff_eq, bne_iff_ne, Bool.not_eq_true', List.contains_eq_mem,
    decide_eq_true_eq, decide_eq_false_iff_not, and_assoc, or_assoc]

end Sys2Proof
end

