-- ==== Sys2Proof/Laws/Exec.lean ====
section
/-! SUPPORT. The frame of each update, and what the handlers that can fault answer, from what their shared operation answers (41_control_flow.md to 45_timers_input.md). -/

namespace Sys2Proof.Machine

/-! ### Frames of the updates -/

theorem frame_setReg (s : State) {x : RegIdx} (b : Byte) {rs : List RegIdx} (h : x ∈ rs) (ps : List Part) :
    Frame rs ps s (s.setReg x b) :=
  frame_of_regs _ rfl fun _ hj => reg_setReg_ne _ _ fun e => hj (e ▸ h)

theorem frame_writeFlagged (s : State) (x : RegIdx) (r : Flagged) (ps : List Part) :
    Frame [x, vf] ps s (s.writeFlagged x r) :=
  frame_of_regs _ rfl fun j hj => by
    simp only [List.mem_cons, List.not_mem_nil, or_false, not_or] at hj
    rw [reg_writeFlagged, if_neg hj.1, if_neg hj.2]

theorem frame_setPc (s : State) (a : Word) (rs : List RegIdx) : Frame rs [.pc] s (s.setPc a) :=
  ⟨fun _ _ => rfl, fun p hp => by cases p <;> simp [Part.same] at hp ⊢⟩

theorem frame_setIndex (s : State) (a : Word) (rs : List RegIdx) : Frame rs [.index] s (s.setIndex a) :=
  ⟨fun _ _ => rfl, fun p hp => by cases p <;> simp [Part.same] at hp ⊢⟩

theorem frame_setDt (s : State) (b : Byte) (rs : List RegIdx) : Frame rs [.dt] s (s.setDt b) :=
  ⟨fun _ _ => rfl, fun p hp => by cases p <;> simp [Part.same] at hp ⊢⟩

theorem frame_setSt (s : State) (b : Byte) (rs : List RegIdx) : Frame rs [.st] s (s.setSt b) :=
  ⟨fun _ _ => rfl, fun p hp => by cases p <;> simp [Part.same] at hp ⊢⟩

theorem frame_setBytes (s : State) (a : Nat) (bs : List Byte) (rs : List RegIdx) :
    Frame rs [.memory] s (s.setBytes a bs) := by
  rw [setBytes_eq]
  exact ⟨fun _ _ => rfl, fun p hp => by cases p <;> simp [Part.same, State.pixel] at hp ⊢⟩

@[simp] theorem skipIf_pc (s : State) (b : Bool) : (s.skipIf b).pc = if b = true then s.pc + 2 else s.pc := by
  cases b <;> simp [State.skipIf, State.skip]

theorem frame_skipIf (s : State) (b : Bool) (rs : List RegIdx) : Frame rs [.pc] s (s.skipIf b) := by
  cases b
  · exact frame_refl _ _ _
  · exact frame_setPc _ _ _

/-! ### The presented keys -/

/-- The keys a handler reads are those presented with the step, and no others (R53). -/
theorem presentsKeys_iff {s : State} {keys : BitVec 16} : s.presentsKeys keys ↔ keys = s.keys := by
  unfold State.presentsKeys State.keys
  cases s.inputs with
  | nil => simp
  | cons i l => simp

/-! ### The countdown -/

/-- A countdown is a truncated subtraction (R105, R35). -/
theorem countDown_toNat (d : Byte) : (countDown d).toNat = d.toNat - 1 := by
  unfold countDown
  split
  · rename_i h; simp [h]
  · rename_i h
    have : d.toNat ≠ 0 := fun h2 => h (BitVec.eq_of_toNat_eq h2)
    have := d.isLt
    rw [BitVec.toNat_sub]; simp; omega

/-! ### Handlers that can fault -/

theorem exec_ret_ok {s t : State} {a : Word} (h : s.pop = .ok (a, t)) : exec .ret s = .next (t.setPc a) := by
  simp only [exec, execRet, h, State.settle]

theorem exec_ret_error {s : State} {e : Raise} (h : s.pop = .error e) : exec .ret s = .next (s.abort e) := by
  simp only [exec, execRet, h, State.settle]

theorem exec_call_ok {s t : State} (nnn : Addr12) (h : s.push s.pc = .ok t) :
    exec (.call nnn) s = .next (t.setPc (zext12 nnn)) := by
  simp only [exec, execCall, h, State.settle]

theorem exec_call_error {s : State} {e : Raise} (nnn : Addr12) (h : s.push s.pc = .error e) :
    exec (.call nnn) s = .next (s.abort e) := by
  simp only [exec, execCall, h, State.settle]

theorem exec_skp_ok {s : State} {x : RegIdx} {k : Nat} (h : s.keyNumber x = .ok k) :
    exec (.skp x) s = .next (s.skipIf (s.keys.getLsbD k)) := by
  simp only [exec, execSkp, h, State.settle]

theorem exec_skp_error {s : State} {x : RegIdx} {e : Raise} (h : s.keyNumber x = .error e) :
    exec (.skp x) s = .next (s.abort e) := by
  simp only [exec, execSkp, h, State.settle]

theorem exec_sknp_ok {s : State} {x : RegIdx} {k : Nat} (h : s.keyNumber x = .ok k) :
    exec (.sknp x) s = .next (s.skipIf (!s.keys.getLsbD k)) := by
  simp only [exec, execSknp, h, State.settle]

theorem exec_sknp_error {s : State} {x : RegIdx} {e : Raise} (h : s.keyNumber x = .error e) :
    exec (.sknp x) s = .next (s.abort e) := by
  simp only [exec, execSknp, h, State.settle]

theorem keyNumber_ok {s : State} {x : RegIdx} (h : (s.reg x).toNat < 16) : s.keyNumber x = .ok (s.reg x).toNat := by
  rw [State.keyNumber, if_neg (Nat.not_le.mpr h)]

theorem keyNumber_error {s : State} {x : RegIdx} (h : 16 ≤ (s.reg x).toNat) :
    s.keyNumber x = .error ⟨.keyOob, (s.reg x).toNat⟩ := by
  rw [State.keyNumber, if_pos h]

theorem exec_ldKey_none {s : State} (x : RegIdx) (h : firstPressed s.keys = none) :
    exec (.ldKey x) s = .next (s.setPc (s.pc - 2)) := by
  simp only [exec, execLdKey, h]

theorem exec_ldKey_some {s : State} (x : RegIdx) {k : Nat} (h : firstPressed s.keys = some k) :
    exec (.ldKey x) s = .next (s.setReg x (BitVec.ofNat 8 k)) := by
  simp only [exec, execLdKey, h]

/-- No key is pressed (R215). -/
theorem firstPressed_none {keys : BitVec 16} (h : ∀ k, k < 16 → keys.getLsbD k = false) : firstPressed keys = none := by
  simp only [firstPressed, keyNumbers, List.find?_eq_none, List.mem_range]
  intro k hk
  simp [h k hk]

/-- The lowest pressed key is the first one (R215). -/
theorem firstPressed_some {keys : BitVec 16} {k : Nat} (hk : k < 16) (h : keys.getLsbD k = true)
    (hlow : ∀ j, j < k → keys.getLsbD j = false) : firstPressed keys = some k := by
  simp only [firstPressed, keyNumbers]
  rw [List.find?_range_eq_some]
  exact ⟨h, by simpa using hk, fun j hj => by simp [hlow j hj]⟩

theorem exec_bcd_ok {s t : State} {x : RegIdx} (h : s.writeBytes (s.effAddr 0) (bcdDigits (s.reg x)) = .ok t) :
    exec (.bcd x) s = .next t := by
  simp only [exec, execBcd, h, State.settle]

theorem exec_bcd_error {s : State} {x : RegIdx} {e : Raise}
    (h : s.writeBytes (s.effAddr 0) (bcdDigits (s.reg x)) = .error e) : exec (.bcd x) s = .next (s.abort e) := by
  simp only [exec, execBcd, h, State.settle]

theorem exec_storeRegs_ok {s t : State} {x : RegIdx} (h : s.writeBytes (s.effAddr 0) (s.regsUpTo x) = .ok t) :
    exec (.storeRegs x) s = .next t := by
  simp only [exec, execStoreRegs, h, State.settle]

theorem exec_storeRegs_error {s : State} {x : RegIdx} {e : Raise}
    (h : s.writeBytes (s.effAddr 0) (s.regsUpTo x) = .error e) : exec (.storeRegs x) s = .next (s.abort e) := by
  simp only [exec, execStoreRegs, h, State.settle]

theorem exec_loadRegs_ok {s : State} {x : RegIdx} {bs : List Byte}
    (h : s.readBytes (s.effAddr 0) (x.val + 1) = .ok bs) : exec (.loadRegs x) s = .next (s.setRegs bs) := by
  simp only [exec, execLoadRegs, h, State.settle]

theorem exec_loadRegs_error {s : State} {x : RegIdx} {e : Raise}
    (h : s.readBytes (s.effAddr 0) (x.val + 1) = .error e) : exec (.loadRegs x) s = .next (s.abort e) := by
  simp only [exec, execLoadRegs, h, State.settle]

theorem exec_drw_ok {s t : State} {x y : RegIdx} {n : Fin 16}
    (h : drawRows (s.startRow y) (s.startCol x) (List.range n.val) (s.setReg vf 0) = .ok t) :
    exec (.drw x y n) s = .next t := by
  simp only [exec, execDrw, h, State.settle]

theorem exec_drw_error {s : State} {x y : RegIdx} {n : Fin 16} {e : Raise}
    (h : drawRows (s.startRow y) (s.startCol x) (List.range n.val) (s.setReg vf 0) = .error e) :
    exec (.drw x y n) s = .next (s.abort e) := by
  simp only [exec, execDrw, h, State.settle]

end Sys2Proof.Machine
end

