-- ==== Sys2Proof/Laws/Handlers.lean ====
section
/-! SUPPORT. The two ways a handler can end, whatever the instruction: a raise taken in the state it started from, or a completed handler (40_cycle.md R100; 60_exceptions.md R232). -/

namespace Sys2Proof.Machine

/-- The two ends of a handler that can raise (R232). -/
theorem settle_cases (s : State) (r : Except Raise State) :
    (∃ e, r = .error e ∧ s.settle r = s.abort e) ∨ (∃ t, r = .ok t ∧ s.settle r = t) := by
  cases r with
  | error e => exact .inl ⟨e, rfl, rfl⟩
  | ok t => exact .inr ⟨t, rfl, rfl⟩

/-- What a handler that completed leaves alone (R13, R100): STATUS and the record, STARTED, the outputs, the parameters, the
inputs; it keeps the framebuffer's size and memory's canonical form. -/
structure Handled (s t : State) : Prop where
  eq : t = { s with v := t.v, pc := t.pc, index := t.index, sp := t.sp, stack := t.stack, dt := t.dt, st := t.st, fb := t.fb, mem := t.mem }
  size : s.fb.length = s.cfg.fbH * s.cfg.fbW → t.fb.length = s.cfg.fbH * s.cfg.fbW
  canonical : Memory.wf s.cfg s.mem → Memory.wf s.cfg t.mem

theorem Handled.of_eq {s t : State}
    (h : t = { s with v := t.v, pc := t.pc, index := t.index, sp := t.sp, stack := t.stack, dt := t.dt, st := t.st }) : Handled s t := by
  refine ⟨?_, fun hs => ?_, fun hm => ?_⟩
  · rw [h]
  · rw [h]; exact hs
  · rw [h]; exact hm

theorem Handled.trans {s t u : State} (h : Handled s t) (k : Handled t u) : Handled s u := by
  have hc : t.cfg = s.cfg := by rw [h.eq]
  refine ⟨?_, fun hs => ?_, fun hm => ?_⟩
  · rw [k.eq, h.eq]
  · have := k.size; rw [hc] at this; exact this (h.size hs)
  · have := k.canonical; rw [hc] at this; exact this (h.canonical hm)

theorem handled_plot (s : State) (p : Nat × Nat) : Handled s (plot s p) := by
  refine ⟨?_, fun h => ?_, fun h => ?_⟩
  · unfold plot; split <;> [split; skip] <;> rfl
  · rw [(plotted_plot s p).size]; exact h
  · rw [(plotted_plot s p).eq]; exact h

/-- The two ends of one set sprite bit (R193). -/
theorem drawBit_cases (s : State) (r c : Nat) :
    (s.cfg.spriteEdge = .fault ∧ ¬ s.onScreen r c ∧ drawBit s r c = .error ⟨.spriteEdge, r * 256 + c⟩) ∨
    drawBit s r c = .ok (plot s (r, c)) := by
  unfold drawBit plot State.onScreen
  by_cases hc : r < s.cfg.fbH ∧ c < s.cfg.fbW
  · right; rw [if_neg (by omega), if_pos hc]
  · rw [if_pos (by omega), if_neg hc]
    cases he : s.cfg.spriteEdge <;> simp [hc]

theorem drawByte_handled (r xs : Nat) (b : Byte) (cols : List Nat) (s t : State) (h : drawByte r xs b cols s = .ok t) : Handled s t := by
  induction cols generalizing s with
  | nil => cases h; exact .of_eq rfl
  | cons col cols ih =>
    unfold drawByte at h
    split at h
    · rcases drawBit_cases s r (xs + col) with ⟨-, -, hb⟩ | hb
      · simp [hb] at h
      · simp only [hb] at h
        exact (handled_plot s _).trans (ih _ h)
    · exact ih _ h

theorem drawRows_handled (ys xs : Nat) (rows : List Nat) (s t : State) (h : drawRows ys xs rows s = .ok t) : Handled s t := by
  induction rows generalizing s with
  | nil => cases h; exact .of_eq rfl
  | cons row rows ih =>
    unfold drawRows at h
    cases hm : s.memRead .readOob (s.effAddr row) with
    | error e => simp [hm] at h
    | ok b =>
      cases hd : drawByte (ys + row) xs b spriteCols s with
      | error e => simp [hm, hd] at h
      | ok u =>
        simp only [hm, hd] at h
        exact (drawByte_handled _ _ _ _ _ _ hd).trans (ih _ h)

theorem writeBytes_handled (a : Nat) (bs : List Byte) (s t : State) (h : s.writeBytes a bs = .ok t) : Handled s t := by
  induction bs generalizing s a with
  | nil => cases h; exact .of_eq rfl
  | cons b bs ih =>
    unfold State.writeBytes at h
    cases hm : s.memWrite a b with
    | error e => simp [hm] at h
    | ok u =>
      simp only [hm] at h
      refine Handled.trans ?_ (ih _ _ h)
      unfold State.memWrite at hm
      split at hm
      · simp at hm
      · split at hm
        · simp at hm
        · rename_i ha _
          cases hm
          exact ⟨rfl, fun h => h, fun h => write_wf b h (by omega)⟩

/-- Everything a handler can do (R100, R232): the fault it raised, or a completed handler. -/
theorem exec_cases {i : Instr} {s t : State} (h : exec i s = .next t) :
    (∃ e, t = s.abort e) ∨ Handled s t := by
  have key : ∀ r, (∀ u, r = .ok u → Handled s u) → (∃ e, s.settle r = s.abort e) ∨ Handled s (s.settle r) := by
    intro r hr
    rcases settle_cases s r with ⟨e, -, he⟩ | ⟨u, hu, he⟩
    · exact .inl ⟨e, he⟩
    · exact .inr (he ▸ hr u hu)
  have setPcH : ∀ (u : State) a, Handled s u → Handled s (u.setPc a) := fun u a hu => hu.trans (.of_eq rfl)
  have skipH : ∀ b, Handled s (s.skipIf b) := fun b => by cases b <;> exact .of_eq rfl
  cases i <;> cases Host.Outcome.next.inj h
  case cls => exact .inr ⟨rfl, fun _ => by simp, fun h => h⟩
  case ret =>
    refine key _ fun u hu => ?_
    cases hp : s.pop with
    | error e => simp [hp] at hu
    | ok p =>
      simp only [hp] at hu
      cases hu
      refine setPcH _ _ ?_
      unfold State.pop at hp
      split at hp <;> cases hp
      exact .of_eq rfl
  case call nnn =>
    refine key _ fun u hu => ?_
    cases hp : s.push s.pc with
    | error e => simp [hp] at hu
    | ok p =>
      simp only [hp] at hu
      cases hu
      refine setPcH _ _ ?_
      unfold State.push at hp
      split at hp <;> cases hp
      exact .of_eq rfl
  case skp x =>
    refine key _ fun u hu => ?_
    cases hp : s.keyNumber x with
    | error e => simp [hp] at hu
    | ok p => simp only [hp] at hu; cases hu; exact skipH _
  case sknp x =>
    refine key _ fun u hu => ?_
    cases hp : s.keyNumber x with
    | error e => simp [hp] at hu
    | ok p => simp only [hp] at hu; cases hu; exact skipH _
  case drw x y n => exact key _ fun u hu => (Handled.of_eq (s := s) (t := s.setReg vf 0) rfl).trans (drawRows_handled _ _ _ _ _ hu)
  case bcd x => exact key _ fun u hu => writeBytes_handled _ _ _ _ hu
  case storeRegs x => exact key _ fun u hu => writeBytes_handled _ _ _ _ hu
  case loadRegs x =>
    refine key _ fun u hu => ?_
    cases hp : s.readBytes (s.effAddr 0) (x.val + 1) with
    | error e => simp [hp] at hu
    | ok p => simp only [hp] at hu; cases hu; exact .of_eq rfl
  case ldKey x => refine .inr ?_; cases firstPressed s.keys <;> exact .of_eq rfl
  all_goals first
    | exact .inr (.of_eq rfl)
    | exact .inr (skipH _)

theorem Handled.status {s t : State} (h : Handled s t) : t.status = s.status := by rw [h.eq]

end Sys2Proof.Machine
end

