-- ==== Sys2Proof/Laws/PerInstr.lean ====
section
/-! SUPPORT. Per instruction: the word the encoder gives it selects the instruction's own row of the opcode map (30_encoding.md R93). -/

namespace Sys2Proof.Laws.EncodesItsRow

/-- A well-formed instruction's word selects the row of R93 that the instruction stands for; a no-op's word selects none. -/
def Statement (i : Instr) : Prop :=
  i.wf = true →
    (∃ r ∈ opcodeRows, r.number = i.row ∧ r.selects (encode i) = true) ∨
    (i.row = 35 ∧ ∀ r ∈ opcodeRows, r.selects (encode i) = false)

/-- A row of the map and a word that selects it settle the statement. -/
theorem of_row {i : Instr} (r : OpcodeRow) (hr : r ∈ opcodeRows) (hn : r.number = i.row)
    (hs : encode i &&& r.mask = r.pattern) : Statement i :=
  fun _ => .inl ⟨r, hr, hn, by simpa [OpcodeRow.selects] using hs⟩

theorem cls : Statement (.cls) :=
  of_row ⟨1, 0x00E0, 0xFFFF⟩ (by simp [opcodeRows]) rfl rfl

theorem ret : Statement (.ret) :=
  of_row ⟨2, 0x00EE, 0xFFFF⟩ (by simp [opcodeRows]) rfl rfl

theorem jp (nnn : Addr12) : Statement (.jp nnn) :=
  of_row ⟨3, 0x1000, 0xF000⟩ (by simp [opcodeRows]) rfl ((and_F000_eq _ 0x1).mpr (by simp [encode]))

theorem call (nnn : Addr12) : Statement (.call nnn) :=
  of_row ⟨4, 0x2000, 0xF000⟩ (by simp [opcodeRows]) rfl ((and_F000_eq _ 0x2).mpr (by simp [encode]))

theorem seImm (x : RegIdx) (kk : Byte) : Statement (.seImm x kk) :=
  of_row ⟨5, 0x3000, 0xF000⟩ (by simp [opcodeRows]) rfl ((and_F000_eq _ 0x3).mpr (by simp [encode]))

theorem sneImm (x : RegIdx) (kk : Byte) : Statement (.sneImm x kk) :=
  of_row ⟨6, 0x4000, 0xF000⟩ (by simp [opcodeRows]) rfl ((and_F000_eq _ 0x4).mpr (by simp [encode]))

theorem seReg (x y : RegIdx) (ignored : Nibble) : Statement (.seReg x y ignored) :=
  of_row ⟨7, 0x5000, 0xF000⟩ (by simp [opcodeRows]) rfl ((and_F000_eq _ 0x5).mpr (by simp [encode]))

theorem ldImm (x : RegIdx) (kk : Byte) : Statement (.ldImm x kk) :=
  of_row ⟨8, 0x6000, 0xF000⟩ (by simp [opcodeRows]) rfl ((and_F000_eq _ 0x6).mpr (by simp [encode]))

theorem addImm (x : RegIdx) (kk : Byte) : Statement (.addImm x kk) :=
  of_row ⟨9, 0x7000, 0xF000⟩ (by simp [opcodeRows]) rfl ((and_F000_eq _ 0x7).mpr (by simp [encode]))

theorem ldReg (x y : RegIdx) : Statement (.ldReg x y) :=
  of_row ⟨10, 0x8000, 0xF00F⟩ (by simp [opcodeRows]) rfl ((and_F00F_eq _ 0x8 0x0).mpr (by simp [encode]))

theorem orReg (x y : RegIdx) : Statement (.orReg x y) :=
  of_row ⟨11, 0x8001, 0xF00F⟩ (by simp [opcodeRows]) rfl ((and_F00F_eq _ 0x8 0x1).mpr (by simp [encode]))

theorem andReg (x y : RegIdx) : Statement (.andReg x y) :=
  of_row ⟨12, 0x8002, 0xF00F⟩ (by simp [opcodeRows]) rfl ((and_F00F_eq _ 0x8 0x2).mpr (by simp [encode]))

theorem xorReg (x y : RegIdx) : Statement (.xorReg x y) :=
  of_row ⟨13, 0x8003, 0xF00F⟩ (by simp [opcodeRows]) rfl ((and_F00F_eq _ 0x8 0x3).mpr (by simp [encode]))

theorem addReg (x y : RegIdx) : Statement (.addReg x y) :=
  of_row ⟨14, 0x8004, 0xF00F⟩ (by simp [opcodeRows]) rfl ((and_F00F_eq _ 0x8 0x4).mpr (by simp [encode]))

theorem subReg (x y : RegIdx) : Statement (.subReg x y) :=
  of_row ⟨15, 0x8005, 0xF00F⟩ (by simp [opcodeRows]) rfl ((and_F00F_eq _ 0x8 0x5).mpr (by simp [encode]))

theorem shr (x y : RegIdx) : Statement (.shr x y) :=
  of_row ⟨16, 0x8006, 0xF00F⟩ (by simp [opcodeRows]) rfl ((and_F00F_eq _ 0x8 0x6).mpr (by simp [encode]))

theorem subnReg (x y : RegIdx) : Statement (.subnReg x y) :=
  of_row ⟨17, 0x8007, 0xF00F⟩ (by simp [opcodeRows]) rfl ((and_F00F_eq _ 0x8 0x7).mpr (by simp [encode]))

theorem shl (x y : RegIdx) : Statement (.shl x y) :=
  of_row ⟨18, 0x800E, 0xF00F⟩ (by simp [opcodeRows]) rfl ((and_F00F_eq _ 0x8 0xE).mpr (by simp [encode]))

theorem sneReg (x y : RegIdx) (ignored : Nibble) : Statement (.sneReg x y ignored) :=
  of_row ⟨19, 0x9000, 0xF000⟩ (by simp [opcodeRows]) rfl ((and_F000_eq _ 0x9).mpr (by simp [encode]))

theorem ldI (nnn : Addr12) : Statement (.ldI nnn) :=
  of_row ⟨20, 0xA000, 0xF000⟩ (by simp [opcodeRows]) rfl ((and_F000_eq _ 0xA).mpr (by simp [encode]))

theorem jpV0 (nnn : Addr12) : Statement (.jpV0 nnn) :=
  of_row ⟨21, 0xB000, 0xF000⟩ (by simp [opcodeRows]) rfl ((and_F000_eq _ 0xB).mpr (by simp [encode]))

theorem rnd (x : RegIdx) (kk : Byte) : Statement (.rnd x kk) :=
  of_row ⟨22, 0xC000, 0xF000⟩ (by simp [opcodeRows]) rfl ((and_F000_eq _ 0xC).mpr (by simp [encode]))

theorem drw (x y : RegIdx) (n : Fin 16) : Statement (.drw x y n) :=
  of_row ⟨23, 0xD000, 0xF000⟩ (by simp [opcodeRows]) rfl ((and_F000_eq _ 0xD).mpr (by simp [encode]))

theorem skp (x : RegIdx) : Statement (.skp x) :=
  of_row ⟨24, 0xE09E, 0xF0FF⟩ (by simp [opcodeRows]) rfl ((and_F0FF_eq _ 0xE 0x9E).mpr (by simp [encode]))

theorem sknp (x : RegIdx) : Statement (.sknp x) :=
  of_row ⟨25, 0xE0A1, 0xF0FF⟩ (by simp [opcodeRows]) rfl ((and_F0FF_eq _ 0xE 0xA1).mpr (by simp [encode]))

theorem ldVxDt (x : RegIdx) : Statement (.ldVxDt x) :=
  of_row ⟨26, 0xF007, 0xF0FF⟩ (by simp [opcodeRows]) rfl ((and_F0FF_eq _ 0xF 0x07).mpr (by simp [encode]))

theorem ldKey (x : RegIdx) : Statement (.ldKey x) :=
  of_row ⟨27, 0xF00A, 0xF0FF⟩ (by simp [opcodeRows]) rfl ((and_F0FF_eq _ 0xF 0x0A).mpr (by simp [encode]))

theorem ldDtVx (x : RegIdx) : Statement (.ldDtVx x) :=
  of_row ⟨28, 0xF015, 0xF0FF⟩ (by simp [opcodeRows]) rfl ((and_F0FF_eq _ 0xF 0x15).mpr (by simp [encode]))

theorem ldStVx (x : RegIdx) : Statement (.ldStVx x) :=
  of_row ⟨29, 0xF018, 0xF0FF⟩ (by simp [opcodeRows]) rfl ((and_F0FF_eq _ 0xF 0x18).mpr (by simp [encode]))

theorem addI (x : RegIdx) : Statement (.addI x) :=
  of_row ⟨30, 0xF01E, 0xF0FF⟩ (by simp [opcodeRows]) rfl ((and_F0FF_eq _ 0xF 0x1E).mpr (by simp [encode]))

theorem ldFont (x : RegIdx) : Statement (.ldFont x) :=
  of_row ⟨31, 0xF029, 0xF0FF⟩ (by simp [opcodeRows]) rfl ((and_F0FF_eq _ 0xF 0x29).mpr (by simp [encode]))

theorem bcd (x : RegIdx) : Statement (.bcd x) :=
  of_row ⟨32, 0xF033, 0xF0FF⟩ (by simp [opcodeRows]) rfl ((and_F0FF_eq _ 0xF 0x33).mpr (by simp [encode]))

theorem storeRegs (x : RegIdx) : Statement (.storeRegs x) :=
  of_row ⟨33, 0xF055, 0xF0FF⟩ (by simp [opcodeRows]) rfl ((and_F0FF_eq _ 0xF 0x55).mpr (by simp [encode]))

theorem loadRegs (x : RegIdx) : Statement (.loadRegs x) :=
  of_row ⟨34, 0xF065, 0xF0FF⟩ (by simp [opcodeRows]) rfl ((and_F0FF_eq _ 0xF 0x65).mpr (by simp [encode]))

/-- No row of the map selects a word of the no-op space. -/
theorem no_row_selects {w : Word} (h : inNoOpSpace w = true) : ∀ r ∈ opcodeRows, ¬ w &&& r.mask = r.pattern := by
  have kF : classOf (w &&& 0xF000) = classOf w := by rw [and_F000]; simp
  have k8 : classOf (w &&& 0xF00F) = classOf w ∧ fieldN (w &&& 0xF00F) = fieldN w := by rw [and_F00F]; simp
  have kE : classOf (w &&& 0xF0FF) = classOf w ∧ fieldKK (w &&& 0xF0FF) = fieldKK w := by rw [and_F0FF]; simp
  intro r hr hs
  have hc := congrArg classOf hs
  have hn := congrArg fieldN hs
  have hk := congrArg fieldKK hs
  rw [inNoOpSpace_iff] at h
  simp only [opcodeRows, List.cons_append, List.nil_append, List.mem_cons, List.not_mem_nil, or_false] at hr
  rcases hr with rfl | rfl | rfl | rfl | rfl | rfl | rfl | rfl | rfl | rfl | rfl | rfl | rfl | rfl | rfl | rfl | rfl |
    rfl | rfl | rfl | rfl | rfl | rfl | rfl | rfl | rfl | rfl | rfl | rfl | rfl | rfl | rfl | rfl | rfl <;>
  simp only [and_FFFF, kF, k8.1, k8.2, kE.1, kE.2] at hs hc hn hk <;>
  rcases h with h | h | h | h <;> simp_all [classOf, fieldN, fieldKK]

theorem nop (word : Word) : Statement (.nop word) :=
  fun h => .inr ⟨rfl, fun r hr => by
    have := no_row_selects h r hr
    simpa [OpcodeRow.selects, encode] using this⟩

end Sys2Proof.Laws.EncodesItsRow
end

