-- ==== Sys2Proof/Laws/Raises.lean ====
section
/-! SUPPORT. What a raise out of the memory transfers and the draw reports (60_exceptions.md R233, R237), and what a completed one leaves. -/

namespace Sys2Proof.Machine

/-- A handler that ends running completed. -/
theorem settle_run {s : State} {r : Except Raise State} (h : (s.settle r).status = .running) : r = .ok (s.settle r) := by
  cases r with
  | error e => cases h
  | ok t => rfl

/-- A fetch that faults, whole (R232). -/
theorem fetchFault_faults (s : State) (e : Raise) : StepFaults e.cause e.info 0 s ((s.fetchFault e).nextInput) := by
  refine ⟨rfl, rfl, rfl, rfl, rfl, rfl, rfl, rfl, fun j _ => rfl, fun p hp => ?_⟩
  cases p <;> simp [Part.same] at hp ⊢

/-- A completed store is `setBytes` (R62). -/
theorem writeBytes_eq (a : Nat) (bs : List Byte) (s t : State) (h : s.writeBytes a bs = .ok t) : t = s.setBytes a bs := by
  induction bs generalizing s a with
  | nil => cases h; rfl
  | cons b bs ih =>
    unfold State.writeBytes at h
    cases hm : s.memWrite a b with
    | error e => simp [hm] at h
    | ok u =>
      simp only [hm] at h
      unfold State.memWrite at hm
      split at hm
      · simp at hm
      · split at hm
        · simp at hm
        · cases hm; exact ih _ _ h

/-- A store that raises reports the first failing address: out of range, or in a protected reserved region (R233, R237). -/
theorem writeBytes_error (a : Nat) (bs : List Byte) (s : State) (e : Raise) (h : s.writeBytes a bs = .error e) :
  (s.cfg.memSize < a + bs.length ∧ e = ⟨.writeOob, max a s.cfg.memSize⟩) ∨ (s.cfg.reservedWrite = .fault ∧ a ≤ 0x1FF ∧ e = ⟨.reservedWrite, a⟩) := by
  by_cases hr : s.cfg.reservedWrite = .allow ∨ Config.reservedHi < a
  · by_cases hh : a + bs.length ≤ s.cfg.memSize
    · rw [writeBytes_ok s a bs hh hr] at h; cases h
    · by_cases hb : bs = []
      · subst hb; cases h
      · rw [writeBytes_oob s a bs (by omega) hb hr] at h; cases h
        exact .inl ⟨by omega, rfl⟩
  · have h1 : s.cfg.reservedWrite = .fault := by cases hq : s.cfg.reservedWrite <;> simp_all
    have h2 : a ≤ Config.reservedHi := by omega
    cases bs with
    | nil => cases h
    | cons b bs =>
      by_cases hm : a < s.cfg.memSize
      · rw [writeBytes_reserved s a b bs hm h1 h2] at h; cases h; exact .inr ⟨h1, h2, rfl⟩
      · simp [State.writeBytes, State.memWrite, show s.cfg.memSize ≤ a by omega] at h
        exact .inl ⟨by simp; omega, by rw [← h]; simp; omega⟩

/-- A completed store was in range, and did what `setBytes` does (R62). -/
theorem writeBytes_run {s t : State} {a : Nat} {bs : List Byte} (hb : bs ≠ [])
    (h : s.writeBytes a bs = .ok t) : a + bs.length ≤ s.cfg.memSize ∧ t = s.setBytes a bs := by
  refine ⟨?_, writeBytes_eq _ _ _ _ h⟩
  by_contra hc
  by_cases hr : s.cfg.reservedWrite = .allow ∨ Config.reservedHi < a
  · rw [writeBytes_oob s a bs (by omega) hb hr] at h; cases h
  · have h1 : s.cfg.reservedWrite = .fault := by cases hq : s.cfg.reservedWrite <;> simp_all
    cases bs with
    | nil => exact hb rfl
    | cons b bs =>
      by_cases hm : a < s.cfg.memSize
      · rw [writeBytes_reserved s a b bs hm h1 (by omega)] at h; cases h
      · simp [State.writeBytes, State.memWrite, show s.cfg.memSize ≤ a by omega] at h

/-- A completed sprite byte changes VF and pixels only. -/
theorem drawByte_plotted (r xs : Nat) (b : Byte) (cols : List Nat) (s t : State) (h : drawByte r xs b cols s = .ok t) : Plotted s t := by
  induction cols generalizing s with
  | nil => cases h; exact .refl _
  | cons col cols ih =>
    unfold drawByte at h
    split at h
    · rcases drawBit_cases s r (xs + col) with ⟨-, -, hb⟩ | hb
      · simp [hb] at h
      · simp only [hb] at h
        exact (plotted_plot s _).trans (ih _ h)
    · exact ih _ h

/-- A completed draw changes VF and pixels only. -/
theorem drawRows_plotted (ys xs : Nat) (rows : List Nat) (s t : State) (h : drawRows ys xs rows s = .ok t) : Plotted s t := by
  induction rows generalizing s with
  | nil => cases h; exact .refl _
  | cons row rows ih =>
    unfold drawRows at h
    cases hm : s.memRead .readOob (s.effAddr row) with
    | error e => simp [hm] at h
    | ok b =>
      cases hd : drawByte (ys + row) xs b spriteCols s with
      | error e => simp [hm, hd] at h
      | ok u =>
        simp only [hm, hd] at h
        exact (drawByte_plotted _ _ _ _ _ _ hd).trans (ih _ h)

/-- A sprite byte raises SPRITE_EDGE only, for one of its set bits off the screen (R193). -/
theorem drawByte_error (r xs : Nat) (b : Byte) (cols : List Nat) (s : State) (e : Raise) (h : drawByte r xs b cols s = .error e) :
    ∃ col ∈ cols, b.getLsbD (7 - col) = true ∧ s.cfg.spriteEdge = .fault ∧ ¬ s.onScreen r (xs + col) ∧ e = ⟨.spriteEdge, r * 256 + (xs + col)⟩ := by
  induction cols generalizing s with
  | nil => cases h
  | cons col cols ih =>
    unfold drawByte at h
    split at h
    · rename_i hb
      rcases drawBit_cases s r (xs + col) with ⟨h1, h2, h3⟩ | h3
      · simp [h3] at h; exact ⟨col, by simp, hb, h1, h2, h.symm⟩
      · simp only [h3] at h
        obtain ⟨c, hc, h4, h5, h6, h7⟩ := ih _ h
        have := (plotted_plot s (r, xs+col)).cfg
        simp only [State.onScreen] at *
        rw [this] at h5 h6
        exact ⟨c, by simp [hc], h4, h5, h6, h7⟩
    · obtain ⟨c, hc, h4⟩ := ih _ h
      exact ⟨c, by simp [hc], h4⟩

/-- A draw raises READ_OOB for one of its rows or SPRITE_EDGE for one of its set bits (R191, R193). -/
theorem drawRows_error (ys xs : Nat) (rows : List Nat) (s : State) (e : Raise) (h : drawRows ys xs rows s = .error e) :
    (∃ row ∈ rows, s.cfg.memSize ≤ s.effAddr row ∧ e = ⟨.readOob, s.effAddr row⟩) ∨
    (∃ row ∈ rows, ∃ col ∈ spriteCols, (s.byteAt (s.effAddr row)).getLsbD (7 - col) = true ∧ s.cfg.spriteEdge = .fault ∧ ¬ s.onScreen (ys + row) (xs + col) ∧ e = ⟨.spriteEdge, (ys + row) * 256 + (xs + col)⟩) := by
  induction rows generalizing s with
  | nil => cases h
  | cons row rows ih =>
    unfold drawRows at h
    by_cases hm : s.cfg.memSize ≤ s.effAddr row
    · simp [State.memRead, hm] at h
      exact .inl ⟨row, by simp, hm, h.symm⟩
    · have hr : s.memRead .readOob (s.effAddr row) = .ok (s.byteAt (s.effAddr row)) := by simp [State.memRead, hm]
      simp only [hr] at h
      cases hd : drawByte (ys + row) xs (s.byteAt (s.effAddr row)) spriteCols s with
      | error e' =>
        simp [hd] at h; subst h
        obtain ⟨c, hc, h4⟩ := drawByte_error _ _ _ _ _ _ hd
        exact .inr ⟨row, by simp, c, hc, h4⟩
      | ok u =>
        simp only [hd] at h
        have hp := drawByte_plotted _ _ _ _ _ _ hd
        have he : ∀ k, u.effAddr k = s.effAddr k := fun k => by simp [State.effAddr, hp.index]
        rcases ih _ h with ⟨row, hr, h1, h2⟩ | ⟨row, hr, c, hc, h1, h2, h3, h4⟩
        · rw [hp.cfg, he] at h1; rw [he] at h2; exact .inl ⟨row, by simp [hr], h1, h2⟩
        · rw [hp.byteAt, he] at h1; rw [hp.cfg] at h2; simp only [State.onScreen, hp.cfg] at h3
          exact .inr ⟨row, by simp [hr], c, hc, h1, h2, h3, h4⟩

/-- The points of a draw are the positions of its set bits. -/
theorem mem_rowPoints_spriteBit (s : State) (x y : RegIdx) (n : Nat) (r c : Nat) :
    (r, c) ∈ rowPoints (s.setReg vf 0) (s.startRow y) (s.startCol x) (List.range n) ↔ s.spriteBit x y n r c = true := by
  rw [mem_rowPoints]
  simp only [State.spriteBit, State.startRow, State.startCol, Bool.and_eq_true, decide_eq_true_eq, setReg_byteAt, setReg_index]
  tauto

/-- A range cut at one of its numbers. -/
theorem split_range (n row : Nat) (h : row < n) : ∃ rest, List.range n = List.range row ++ row :: rest := by
  refine ⟨(List.range (n - row - 1)).map (fun k => row + 1 + k), ?_⟩
  have : n = row + (1 + (n - row - 1)) := by omega
  conv_lhs => rw [this]
  rw [List.range_add, List.range_add]
  simp [Nat.add_assoc]

/-- The first row out of memory is reported when no bit of an earlier row faults (R237). -/
theorem drawRows_oob (ys xs : Nat) (rows rest : List Nat) (row : Nat) (s : State) (hm : ∀ r ∈ rows, s.effAddr r < s.cfg.memSize)
    (hb : s.cfg.memSize ≤ s.effAddr row)
    (h : NoEdgeFault s (rowPoints s ys xs rows)) :
    drawRows ys xs (rows ++ row :: rest) s = .error ⟨.readOob, s.effAddr row⟩ := by
  induction rows generalizing s with
  | nil => simp [drawRows, State.memRead, hb]
  | cons r rows ih =>
    have hpts : rowPoints s ys xs (r :: rows) =
        bytePoints (ys + r) xs (s.byteAt (s.effAddr r)) spriteCols ++ rowPoints s ys xs rows := by
      simp [rowPoints]
    have hread : s.memRead .readOob (s.effAddr r) = .ok (s.byteAt (s.effAddr r)) := by
      rw [State.memRead, if_neg (Nat.not_le.mpr (hm r (by simp)))]
    rw [hpts] at h
    have hp := plotted_foldl (bytePoints (ys + r) xs (s.byteAt (s.effAddr r)) spriteCols) s
    have he : ∀ k, State.effAddr (List.foldl plot s (bytePoints (ys + r) xs (s.byteAt (s.effAddr r)) spriteCols)) k = s.effAddr k := fun k => by unfold State.effAddr; exact congrArg (fun w : Word => w.toNat + k) hp.index
    simp only [List.cons_append, drawRows, hread, drawByte_plot _ _ _ _ s (h.mono rfl (fun p hp => List.mem_append_left _ hp))]
    rw [ih]
    · rw [he]
    · intro k hk; rw [he, hp.cfg]; exact hm k (by simp [hk])
    · rw [he, hp.cfg]; exact hb
    · rw [rowPoints_congr ys xs rows hp]
      exact h.mono hp.cfg (fun p hp => List.mem_append_right _ hp)

/-- The first set bit off the screen is reported (R237). -/
theorem drawByte_edge (r xs : Nat) (b : Byte) (cols rest : List Nat) (col : Nat) (s : State)
    (h : NoEdgeFault s (bytePoints r xs b cols)) (hf : s.cfg.spriteEdge = .fault) (hb : b.getLsbD (7 - col) = true) (ho : ¬ s.onScreen r (xs + col)) :
    drawByte r xs b (cols ++ col :: rest) s = .error ⟨.spriteEdge, r * 256 + (xs + col)⟩ := by
  induction cols generalizing s with
  | nil =>
    simp only [List.nil_append, drawByte, hb, if_true]
    have : drawBit s r (xs + col) = .error ⟨.spriteEdge, r * 256 + (xs + col)⟩ := by
      unfold drawBit; simp only [State.onScreen] at ho; rw [if_pos (by omega), hf]
    simp [this]
  | cons c cols ih =>
    simp only [List.cons_append]
    unfold drawByte
    by_cases hc : b.getLsbD (7 - c) = true
    · have hpts : bytePoints r xs b (c :: cols) = (r, xs + c) :: bytePoints r xs b cols := by simp [bytePoints, hc]
      rw [hpts] at h
      have h1 := drawBit_plot s (r, xs + c) (h.mono rfl (by simp))
      simp only at h1
      rw [if_pos hc, h1]
      have := (plotted_plot s (r, xs + c)).cfg
      refine ih _ (h.mono this (fun p hp => List.mem_cons_of_mem _ hp)) (by rw [this]; exact hf) ?_
      simp only [State.onScreen, this]; exact ho
    · have hpts : bytePoints r xs b (c :: cols) = bytePoints r xs b cols := by simp [bytePoints, hc]
      rw [hpts] at h
      rw [if_neg hc]
      exact ih _ h hf ho

/-- The first row whose bits fault is reported when every row up to it is in memory (R237). -/
theorem drawRows_edge (ys xs : Nat) (rows rest : List Nat) (row : Nat) (e : Raise) (s : State) (hm : ∀ r ∈ rows, s.effAddr r < s.cfg.memSize)
    (hb : s.effAddr row < s.cfg.memSize)
    (h : NoEdgeFault s (rowPoints s ys xs rows))
    (hd : ∀ u : State, u.cfg = s.cfg → drawByte (ys + row) xs (s.byteAt (s.effAddr row)) spriteCols u = .error e) :
    drawRows ys xs (rows ++ row :: rest) s = .error e := by
  induction rows generalizing s with
  | nil => simp [drawRows, State.memRead, Nat.not_le.mpr hb, hd s rfl]
  | cons r rows ih =>
    have hpts : rowPoints s ys xs (r :: rows) =
        bytePoints (ys + r) xs (s.byteAt (s.effAddr r)) spriteCols ++ rowPoints s ys xs rows := by
      simp [rowPoints]
    have hread : s.memRead .readOob (s.effAddr r) = .ok (s.byteAt (s.effAddr r)) := by
      rw [State.memRead, if_neg (Nat.not_le.mpr (hm r (by simp)))]
    rw [hpts] at h
    have hp := plotted_foldl (bytePoints (ys + r) xs (s.byteAt (s.effAddr r)) spriteCols) s
    have he : ∀ k, State.effAddr (List.foldl plot s (bytePoints (ys + r) xs (s.byteAt (s.effAddr r)) spriteCols)) k = s.effAddr k := fun k => by unfold State.effAddr; exact congrArg (fun w : Word => w.toNat + k) hp.index
    simp only [List.cons_append, drawRows, hread, drawByte_plot _ _ _ _ s (h.mono rfl (fun p hp => List.mem_append_left _ hp))]
    apply ih
    · intro k hk; rw [he, hp.cfg]; exact hm k (by simp [hk])
    · rw [he, hp.cfg]; exact hb
    · rw [rowPoints_congr ys xs rows hp]
      exact h.mono hp.cfg (fun p hp => List.mem_append_right _ hp)
    · intro u hu; rw [he, hp.byteAt]; exact hd u (hu.trans hp.cfg)

end Sys2Proof.Machine
end

