-- ==== Sys2Proof/Tests/Slice0.lean ====
section
/-! SUPPORT. The model's own tests: ill-formed terms and parameters refused, words decoded, one step of each instruction (expected results from 95_test_vectors.md, whose vector each theorem names), and a witness for each statement that has hypotheses. -/

namespace Sys2Proof.Tests

open Sys2Proof.Machine

/-! ### Helpers -/

/-- The state after reset with some registers loaded. -/
def withV (l : List (RegIdx × Byte)) : State := l.foldl (fun s p => s.setReg p.1 p.2) State.reset

/-- A state with bytes in memory from `a` up. -/
def withMem (a : Nat) (bs : List Byte) (s : State) : State := s.setBytes a bs

/-- A state whose next step is presented these keys and this random byte. -/
def withInput (keys : BitVec 16) (rnd : Byte) (s : State) : State := { s with inputs := [⟨keys, rnd⟩] }

/-- A state with the word at `pc`. -/
def at_ (w : Word) (s : State) : State := s.withFetchWord 16 w.toNat

/-- The state after one step on the word. -/
def after (w : Word) (s : State) : State :=
  match step (at_ w s) with
  | .next t => t
  | .fault _ => s
  | .refused _ => s

/-- The cause, FAULT_PC, FAULT_INFO, DIAG_WORD and `pc` of a faulted block. -/
def record (s : State) : Option Fault × Word × BitVec 17 × Word × Word :=
  (s.faultCause, s.faultPc, s.faultInfo, s.diagWord, s.pc)

/-- The parameters with both fault choices (R6). -/
def strict : Config := { Config.default with spriteEdge := .fault, reservedWrite := .fault }

/-- The state after reset under them. -/
def strictReset : State := State.resetWith strict

/-! ### Ill-formed terms and parameters are refused -/

theorem test_wf_nop_refuses_instruction_word : (Instr.nop 0x6005).wf = false := by decide
theorem test_wf_nop_refuses_cls : (Instr.nop 0x00E0).wf = false := by decide
theorem test_wf_nop_refuses_ret : (Instr.nop 0x00EE).wf = false := by decide
theorem test_wf_nop_refuses_class8 : (Instr.nop 0x812E).wf = false := by decide
theorem test_wf_nop_refuses_classE : (Instr.nop 0xE59E).wf = false := by decide
theorem test_wf_nop_refuses_classF : (Instr.nop 0xF107).wf = false := by decide
theorem test_wf_nop_accepts_no_op_space : (Instr.nop 0x8128).wf = true := by decide

theorem test_params_default_ok : Config.default.wf := by decide
theorem test_params_mem_size_bound : ¬ { Config.default with memSize := 65537 }.wf := by decide
theorem test_params_entry_in_memory : ¬ { Config.default with entry := 4096 }.wf := by decide
theorem test_params_font_below_entry : ¬ { Config.default with fontBase := 0x1B1 }.wf := by decide
theorem test_params_font_up_to_entry : { Config.default with fontBase := 0x1B0 }.wf := by decide
theorem test_params_width_positive : ¬ { Config.default with fbW := 0 }.wf := by decide
theorem test_params_height_positive : ¬ { Config.default with fbH := 0 }.wf := by decide
theorem test_params_font_length : ¬ { Config.default with fontData := [] }.wf := by decide
theorem test_construct_refuses : State.construct { Config.default with fbW := 0 } = none := by decide

/-! ### Words decode (30_encoding.md R82 to R93): each word is written from the row's mask and match -/

theorem test_decode_class0 : decodeWord 0x00E0 = .cls ∧ decodeWord 0x00EE = .ret := by decide
theorem test_decode_jumps : decodeWord 0x1ABC = .jp 0xABC ∧ decodeWord 0x2210 = .call 0x210 ∧ decodeWord 0xBFF8 = .jpV0 0xFF8 := by
  decide
theorem test_decode_skips : decodeWord 0x3F01 = .seImm 15 0x01 ∧ decodeWord 0x4211 = .sneImm 2 0x11 ∧
    decodeWord 0x5347 = .seReg 3 4 7 ∧ decodeWord 0x9331 = .sneReg 3 3 1 := by decide
theorem test_decode_loads : decodeWord 0x6FAA = .ldImm 15 0xAA ∧ decodeWord 0x7003 = .addImm 0 0x03 ∧
    decodeWord 0xA300 = .ldI 0x300 ∧ decodeWord 0xC40F = .rnd 4 0x0F := by decide
theorem test_decode_alu : decodeWord 0x8120 = .ldReg 1 2 ∧ decodeWord 0x8121 = .orReg 1 2 ∧ decodeWord 0x8122 = .andReg 1 2 ∧
    decodeWord 0x8123 = .xorReg 1 2 ∧ decodeWord 0x81F4 = .addReg 1 15 ∧ decodeWord 0x8F25 = .subReg 15 2 ∧
    decodeWord 0x8376 = .shr 3 7 ∧ decodeWord 0x8127 = .subnReg 1 2 ∧ decodeWord 0x837E = .shl 3 7 := by decide
theorem test_decode_display : decodeWord 0xD125 = .drw 1 2 5 ∧ decodeWord 0xDF01 = .drw 15 0 1 := by decide
theorem test_decode_keys : decodeWord 0xE59E = .skp 5 ∧ decodeWord 0xE5A1 = .sknp 5 ∧ decodeWord 0xFB0A = .ldKey 11 := by decide
theorem test_decode_timers : decodeWord 0xF307 = .ldVxDt 3 ∧ decodeWord 0xFA15 = .ldDtVx 10 ∧ decodeWord 0xF018 = .ldStVx 0 := by
  decide
theorem test_decode_memory : decodeWord 0xF21E = .addI 2 ∧ decodeWord 0xF029 = .ldFont 0 ∧ decodeWord 0xF333 = .bcd 3 ∧
    decodeWord 0xFF55 = .storeRegs 15 ∧ decodeWord 0xF165 = .loadRegs 1 := by decide
/-- NP1 to NP8. -/
theorem test_decode_nop : ([0x0123, 0x0000, 0x05E0, 0x8128, 0xE000, 0xF000, 0xF0FF, 0x00EF] : List Word).map decodeWord =
    [.nop 0x0123, .nop 0x0000, .nop 0x05E0, .nop 0x8128, .nop 0xE000, .nop 0xF000, .nop 0xF0FF, .nop 0x00EF] := by decide
theorem test_decode_table_word : decodeTableWord 16 0x8124 = some (.addReg 1 2) ∧ decodeTableWord 16 0x00EE = some .ret := by
  decide
/-- No two rows of R93 select one word: two rows differ in a bit both masks test. -/
theorem test_rows_disjoint :
    opcodeRows.Pairwise (fun p q => p.pattern &&& p.mask &&& q.mask ≠ q.pattern &&& p.mask &&& q.mask) := by decide

/-! ### One step of each instruction -/

/-- S9. -/
theorem test_cls : (State.reset.togglePixel 0 0).pixel 0 0 = true ∧ (after 0x00E0 (State.reset.togglePixel 0 0)).pixel 0 0 = false ∧
    (after 0x00E0 State.reset).fbDirty = true ∧ (after 0x00E0 State.reset).pc = 0x202 := by decide
/-- CF6. -/
theorem test_ret : (after 0x00EE { State.reset with pc := 0x210, sp := 1, stack := State.reset.stack.set 0 0x206 }).pc = 0x206 ∧
    (after 0x00EE { State.reset with pc := 0x210, sp := 1, stack := State.reset.stack.set 0 0x206 }).stack[0] = 0x206 := by decide
/-- CF7. -/
theorem test_ret_underflow :
    record (after 0x00EE { State.reset with pc := 0x210 }) = (some .stackUnderflow, 0x210, 0, 0x00EE, 0x210) := by decide
/-- CF21. -/
theorem test_jp : (after 0x1234 { State.reset with pc := 0xFFE }).pc = 0x234 := by decide
/-- CF4. -/
theorem test_call : (after 0x2300 { State.reset with sp := 15 }).pc = 0x300 ∧ (after 0x2300 { State.reset with sp := 15 }).sp = 16 ∧
    (after 0x2300 { State.reset with sp := 15 }).stack[15] = 0x202 := by decide
/-- CF5. -/
theorem test_call_overflow :
    record (after 0x2300 { State.reset with sp := 16 }) = (some .stackOverflow, 0x200, 0x10, 0x2300, 0x200) := by decide
/-- CF8 and CF9. -/
theorem test_se_imm : (after 0x3100 { State.reset with pc := 0x206 }).pc = 0x20A ∧
    (after 0x3100 { withV [(1, 4)] with pc := 0x206 }).pc = 0x208 := by decide
/-- CF10 and CF11. -/
theorem test_sne_imm : (after 0x4211 { withV [(2, 0x10)] with pc := 0x300 }).pc = 0x304 ∧
    (after 0x4210 { withV [(2, 0x10)] with pc := 0x300 }).pc = 0x302 := by decide
/-- CF13 and CF14. -/
theorem test_se_reg : (after 0x5347 (withV [(3, 1), (4, 1)])).pc = 0x204 ∧ (after 0x5340 (withV [(3, 1), (4, 2)])).pc = 0x202 := by
  decide
/-- CF15 and CF16. -/
theorem test_sne_reg : (after 0x9340 (withV [(3, 1), (4, 2)])).pc = 0x204 ∧ (after 0x9331 (withV [(3, 9)])).pc = 0x202 := by decide
/-- A2. -/
theorem test_ld_imm : (after 0x6FAA (withV [(15, 1)])).reg 15 = 0xAA := by decide
/-- A4. -/
theorem test_add_imm : (after 0x7002 (withV [(0, 0xFF)])).reg 0 = 0x01 ∧ (after 0x7002 (withV [(0, 0xFF)])).reg vf = 0 := by decide
/-- A6. -/
theorem test_ld_reg : (after 0x8120 (withV [(1, 3), (2, 9)])).reg 1 = 0x09 := by decide
/-- A7. -/
theorem test_or : (after 0x8121 (withV [(1, 0xF0), (2, 0x0F), (15, 7)])).reg 1 = 0xFF ∧
    (after 0x8121 (withV [(1, 0xF0), (2, 0x0F), (15, 7)])).reg vf = 7 := by decide
/-- A8. -/
theorem test_and : (after 0x8122 (withV [(1, 0xF0), (2, 0x3C)])).reg 1 = 0x30 := by decide
/-- A9. -/
theorem test_xor : (after 0x8123 (withV [(1, 0xFF), (2, 0x0F)])).reg 1 = 0xF0 := by decide
/-- A15. -/
theorem test_add_reg : (after 0x81F4 (withV [(1, 0x10), (15, 0xF5)])).reg 1 = 0x05 ∧
    (after 0x81F4 (withV [(1, 0x10), (15, 0xF5)])).reg vf = 1 := by decide
/-- A14. -/
theorem test_add_reg_vf : (after 0x8F14 (withV [(1, 1), (15, 0xFF)])).reg vf = 0 := by decide
/-- A17 and A16. -/
theorem test_sub_reg : (after 0x8125 (withV [(1, 5), (2, 5), (15, 1)])).reg vf = 0 ∧ (after 0x8125 (withV [(1, 5), (2, 3)])).reg vf = 1 ∧
    (after 0x8125 (withV [(1, 5), (2, 3)])).reg 1 = 2 := by decide
/-- A19. -/
theorem test_sub_reg_vf : (after 0x8F25 (withV [(15, 9), (2, 3)])).reg vf = 6 := by decide
/-- A22 and A20. -/
theorem test_shr : (after 0x8376 (withV [(3, 0xFE), (7, 0x55)])).reg 3 = 0x7F ∧ (after 0x8306 (withV [(3, 5)])).reg vf = 1 := by decide
/-- A25. -/
theorem test_subn_reg : (after 0x8127 (withV [(1, 5), (2, 3)])).reg 1 = 0xFE ∧ (after 0x8127 (withV [(1, 5), (2, 3)])).reg vf = 0 := by
  decide
/-- A27. -/
theorem test_shl : (after 0x830E (withV [(3, 0x81)])).reg 3 = 0x02 ∧ (after 0x830E (withV [(3, 0x81)])).reg vf = 1 := by decide
/-- M1. -/
theorem test_ld_i : (after 0xA300 State.reset).index = 0x300 := by decide
/-- CF18. -/
theorem test_jp_v0 : (after 0xBFF8 (withV [(0, 0x10)])).pc = 0x1008 := by decide
/-- A31. -/
theorem test_rnd : (after 0xC40F (withInput 0 0xAB State.reset)).reg 4 = 0x0B := by decide
/-- DR6. -/
theorem test_drw_clips :
    let t := after 0xD121 { withMem 0x300 [0xFF] (withV [(1, 12)]) with index := 0x300 }
    t.pixel 0 11 = false ∧ t.pixel 0 12 = true ∧ t.pixel 0 15 = true ∧ t.pixel 1 0 = false ∧ t.reg vf = 0 := by decide
/-- DR3 and DR11, on the columns of one row: the collision is seen before the toggle, and V[x] is read before VF is cleared. -/
theorem test_drw_flag :
    let t := after 0xDF01 { (withMem 0x300 [0x80] (withV [(15, 3)])).togglePixel 0 3 with index := 0x300 }
    t.pixel 0 3 = false ∧ t.reg vf = 1 := by decide
/-- DR8. -/
theorem test_drw_edge_fault :
    record (after 0xD121 { (withMem 0x300 [0xFF] strictReset).setReg 1 12 with index := 0x300 }) =
      (some .spriteEdge, 0x200, 0x010, 0xD121, 0x200) := by decide
/-- T7 and T8. -/
theorem test_skp : (after 0xE59E (withInput 0x0080 0 { withV [(5, 7)] with pc := 0x220 })).pc = 0x224 ∧
    (after 0xE59E (withInput 0 0 { withV [(5, 7)] with pc := 0x220 })).pc = 0x222 := by decide
/-- T11. -/
theorem test_skp_oob : record (after 0xE59E (withInput 0xFFFF 0 { withV [(5, 0x10)] with pc := 0x220 })) =
    (some .keyOob, 0x220, 0x10, 0xE59E, 0x220) := by decide
/-- T9 and T10. -/
theorem test_sknp : (after 0xE5A1 (withInput 0 0 { withV [(5, 7)] with pc := 0x220 })).pc = 0x224 ∧
    (after 0xE5A1 (withInput 0x0080 0 { withV [(5, 7)] with pc := 0x220 })).pc = 0x222 := by decide
/-- T15. -/
theorem test_sknp_oob : record (after 0xE0A1 (withInput 0 0 (withV [(0, 0xFF)]))) = (some .keyOob, 0x200, 0xFF, 0xE0A1, 0x200) := by
  decide
/-- T1. -/
theorem test_ld_vx_dt : (after 0xF307 { State.reset with dt := 5 }).reg 3 = 5 ∧ (after 0xF307 { State.reset with dt := 5 }).dt = 4 := by
  decide
/-- T12. -/
theorem test_ld_key_waits : (after 0xFB0A (withInput 0 0 { State.reset with pc := 0x204, dt := 3 })).pc = 0x204 ∧
    (after 0xFB0A (withInput 0 0 { State.reset with pc := 0x204, dt := 3 })).dt = 2 := by decide
/-- T13. -/
theorem test_ld_key : (after 0xFB0A (withInput 0x0280 0 { State.reset with pc := 0x204 })).reg 11 = 7 ∧
    (after 0xFB0A (withInput 0x0280 0 { State.reset with pc := 0x204 })).pc = 0x206 := by decide
/-- T3. -/
theorem test_ld_dt : (after 0xFA15 (withV [(10, 5)])).dt = 4 := by decide
/-- T5. -/
theorem test_ld_st : (after 0xF018 (withV [(0, 3)])).st = 2 := by decide
/-- M3 and M5. -/
theorem test_add_i : (after 0xF21E { withV [(2, 1)] with index := 0xFFFF }).index = 0 ∧
    (after 0xFF1E { withV [(15, 0xFF)] with index := 0xFFF }).index = 0x10FE := by decide
/-- M7 and M9. -/
theorem test_ld_font : (after 0xF029 (withV [(0, 0xF)])).index = 0x09B ∧ (after 0xF029 (withV [(0, 0xFF)])).index = 0x54B := by decide
/-- M12. -/
theorem test_bcd : (after 0xF333 { withMem 0x300 [9, 9, 9] (withV [(3, 7)]) with index := 0x300 }).mem = [(0x200, 0xF3), (0x201, 0x33), (0x302, 7)] := by
  decide
/-- M13. -/
theorem test_bcd_oob : record (after 0xF333 { withV [(3, 100)] with index := 0xFFE, dt := 5 }) = (some .writeOob, 0x200, 0x1000, 0xF333, 0x200) ∧
    (after 0xF333 { withV [(3, 100)] with index := 0xFFE, dt := 5 }).byteAt 0xFFE = 0 ∧
    (after 0xF333 { withV [(3, 100)] with index := 0xFFE, dt := 5 }).dt = 5 := by decide
/-- M14. -/
theorem test_store_regs : (after 0xF255 { withV [(0, 0x11), (1, 0x22), (2, 0x33)] with index := 0x300 }).mem =
    [(0x200, 0xF2), (0x201, 0x55), (0x300, 0x11), (0x301, 0x22), (0x302, 0x33)] := by decide
/-- R62 under RESERVED_WRITE = fault. -/
theorem test_store_regs_reserved : record (after 0xF055 { strictReset with index := 0x1FF }) =
    (some .reservedWrite, 0x200, 0x1FF, 0xF055, 0x200) := by decide
/-- M18. -/
theorem test_load_regs : (after 0xFF65 { withMem 0x30F [0x42] (withV [(0, 5), (15, 1)]) with index := 0x300 }).reg vf = 0x42 ∧
    (after 0xFF65 { withMem 0x30F [0x42] (withV [(0, 5), (15, 1)]) with index := 0x300 }).reg 0 = 0 := by decide
/-- M19. -/
theorem test_load_regs_oob : record (after 0xF365 { State.reset with index := 0xFFE }) = (some .readOob, 0x200, 0x1000, 0xF365, 0x200) := by
  decide
/-- NP1. -/
theorem test_nop : (after 0x0123 { State.reset with dt := 3 }).pc = 0x202 ∧ (after 0x0123 { State.reset with dt := 3 }).dt = 2 ∧
    (after 0x0123 { State.reset with dt := 3 }).diagUnknown = true := by decide
/-- CY1: the low byte is beyond memory. -/
theorem test_fetch_second_byte : record (after 0x0000 { State.reset with pc := 0xFFF }) = (some .fetchOob, 0xFFF, 0x1000, 0, 0xFFF) := by
  decide
/-- CY3. -/
theorem test_fetch_first_byte : record (after 0x0000 { State.reset with pc := 0x1000, dt := 4 }) = (some .fetchOob, 0x1000, 0x1000, 0, 0x1000) ∧
    (after 0x0000 { State.reset with pc := 0x1000, dt := 4 }).dt = 4 := by decide
/-- The last glyph row of the font table, and the byte after it (R67). -/
theorem test_font : State.reset.byteAt 0x050 = 0xF0 ∧ State.reset.byteAt 0x09F = 0x80 ∧ State.reset.byteAt 0x0A0 = 0 := by decide
/-- LD2 and LD6. -/
theorem test_load : (State.reset.load [0x60, 0x05, 0x70, 0x03]).2.byteAt 0x203 = 0x03 ∧
    (State.reset.loaderWrite 0x1000 1 true).mem = [] := by decide

/-! ### Witnesses: each meets the hypotheses of the statement it is named after, clause by clause, at boundary values -/

/-- The state a handler leaves. -/
def handled (i : Instr) (s : State) : State :=
  match exec i s with
  | .next t => t
  | .fault _ => s
  | .refused _ => s

/-- A one-byte sprite at 0x300 and V1 = 8, so that its columns end at the last one. -/
def spriteState : State := { withMem 0x300 [0xFF] (withV [(1, 8)]) with index := 0x300 }

theorem witness_DecodeInvertsEncode : (Instr.drw 15 15 15).wf = true ∧ (Instr.nop 0xFFFF).wf = true := by decide

theorem witness_EveryWordIsOneInstruction : (Instr.jp 0xFFF).wf = true ∧ encode (.jp 0xFFF) = 0x1FFF := by decide

theorem witness_WordSelectsItsTableRow : (⟨34, 0xF065, 0xF0FF⟩ : OpcodeRow) ∈ opcodeRows := by decide

theorem witness_NoOpSpaceIsExact : decodeWord 0x0000 = .nop 0x0000 ∧ decodeWord 0xFFFF = .nop 0xFFFF := by decide

theorem witness_FamilyByteSelectors :
    ([0xEF9E, 0xE0A1, 0xE09F] : List Word).map (fun w => (w.extractLsb' 12 4, w.extractLsb' 0 8)) =
      [(0xE, 0x9E), (0xE, 0xA1), (0xE, 0x9F)] ∧
    ([0xFF07, 0xF00A, 0xFF15, 0xF018, 0xFF1E, 0xF029, 0xFF33, 0xF055, 0xFF65, 0xF066] : List Word).map
      (fun w => (w.extractLsb' 12 4, w.extractLsb' 0 8)) =
      [(0xF, 0x07), (0xF, 0x0A), (0xF, 0x15), (0xF, 0x18), (0xF, 0x1E), (0xF, 0x29), (0xF, 0x33), (0xF, 0x55), (0xF, 0x65),
       (0xF, 0x66)] := by decide

theorem witness_TwoBytesAreOneInstruction : (Instr.nop 0x0000).wf = true ∧
    ({ State.reset with pc := 0xFFE }.pc.toNat + 1 < State.reset.cfg.memSize) := by decide

theorem witness_StepRunsTheDecodedInstruction_running :
    let s := at_ 0x6005 { State.reset with pc := 0xFFE }
    s.status = .running ∧ s.pc.toNat + 1 < s.cfg.memSize ∧ (0x6005 : Word) = s.byteAt s.pc.toNat ++ s.byteAt (s.pc.toNat + 1) ∧
      (handled (decodeWord 0x6005) { s with started := true, diagWord := 0x6005, pc := s.pc + 2 }).status = .running := by decide

theorem witness_StepRunsTheDecodedInstruction_faulted :
    let s := at_ 0x00EE State.reset
    s.status = .running ∧ s.pc.toNat + 1 < s.cfg.memSize ∧ (0x00EE : Word) = s.byteAt s.pc.toNat ++ s.byteAt (s.pc.toNat + 1) ∧
      (handled (decodeWord 0x00EE) { s with started := true, diagWord := 0x00EE, pc := s.pc + 2 }).status = .faulted := by decide

theorem witness_FaultedBlockWaitsForReset : (after 0x00EE State.reset).status = .faulted ∧ SafeRun 1 State.reset :=
  ⟨by decide, _, rfl, by decide⟩

theorem witness_FetchBeyondMemoryFaults :
    ({ State.reset with pc := 0xFFF }.status = .running ∧ State.reset.cfg.memSize ≤ { State.reset with pc := 0xFFF }.pc.toNat + 1) ∧
    State.reset.cfg.memSize ≤ { State.reset with pc := 0xFFFF }.pc.toNat + 1 := by decide

theorem witness_TimersCountDownAfterHandler : (after 0xFA15 (withV [(10, 5)])).status = .running ∧
    (after 0xFA18 (withV [(10, 255)])).status = .running ∧ (after 0x1200 { State.reset with dt := 255, st := 1 }).status = .running := by
  decide

theorem witness_StepOutputsReportTheStep : step (at_ 0x00E0 State.reset) = .next (after 0x00E0 State.reset) ∧
    (after 0x00E0 State.reset).status = .running ∧ (after 0x8128 State.reset).status = .running := ⟨rfl, by decide⟩

theorem witness_StepFaultIsPrecise : step (at_ 0x00EE State.reset) = .next (after 0x00EE State.reset) ∧
    (after 0x00EE State.reset).status = .faulted ∧ (after 0x0000 { State.reset with pc := 0xFFF }).status = .faulted :=
  ⟨rfl, by decide⟩

theorem witness_OnlyListedConditionsFault :
    (handled .ret State.reset).faultCause = some .stackUnderflow ∧
    (handled (.call 0x300) { State.reset with sp := 16 }).faultCause = some .stackOverflow ∧
    (handled (.skp 5) (withV [(5, 16)])).faultCause = some .keyOob ∧
    (handled (.sknp 5) (withV [(5, 255)])).faultCause = some .keyOob ∧
    (handled (.drw 1 2 1) { State.reset with index := 0x1000 }).faultCause = some .readOob ∧
    (handled (.drw 1 2 1) { (withMem 0x300 [0x01] strictReset).setReg 1 9 with index := 0x300 }).faultCause = some .spriteEdge ∧
    (handled (.loadRegs 0) { State.reset with index := 0x1000 }).faultCause = some .readOob ∧
    (handled (.bcd 0) { State.reset with index := 0xFFE }).faultCause = some .writeOob ∧
    (handled (.storeRegs 15) { strictReset with index := 0x1FF }).faultCause = some .reservedWrite := by decide

theorem witness_ResetMeetsInvariant : State.construct strict = some strictReset := if_pos (by decide)

theorem witness_RequestsKeepInvariant : strictReset.Inv :=
  ⟨by decide, nil_wf _, List.length_replicate, ⟨fun _ => ⟨rfl, rfl, rfl⟩, fun h => nomatch h⟩, fun _ => rfl⟩

theorem witness_StepKeepsInvariant : strictReset.Inv ∧ step strictReset = .next (after 0x0000 strictReset) :=
  ⟨witness_RequestsKeepInvariant, rfl⟩

theorem witness_ResetZeroesAndStartsAtEntry : State.reset.cfg.wf ∧ 0xFFF < State.reset.cfg.memSize ∧
    ¬ (State.reset.cfg.fontBase ≤ 0x0A0 ∧ 0x0A0 < State.reset.cfg.fontBase + 80) := by decide

theorem witness_ResetLeavesDecidedValues : strictReset.cfg.wf ∧ 15 < 16 ∧ 4 < 5 := by decide

theorem witness_LoaderPortWritesBeforeStart :
    (true = true ∧ State.reset.started = false ∧ State.reset.status = .running ∧ (0x0FFF : Word).toNat < State.reset.cfg.memSize) ∧
    ¬ (true = true ∧ State.reset.started = false ∧ State.reset.status = .running ∧
      (0x1000 : Word).toNat < State.reset.cfg.memSize) := by decide

/-- LD3 to LD5. -/
theorem witness_LoadCopiesOrRefuses :
    ((after 0x0000 State.reset).started = true ∨ (after 0x0000 State.reset).status = .faulted) ∧
    (State.reset.started = false ∧ State.reset.status = .running) ∧
    State.reset.cfg.memSize - State.reset.cfg.entry < (List.replicate 3585 (0 : Byte)).length ∧
    (List.replicate 3584 (0 : Byte)).length ≤ State.reset.cfg.memSize - State.reset.cfg.entry := by
  rw [List.length_replicate, List.length_replicate]; decide

theorem witness_FramebufferPortWords : State.reset.fb.length = State.reset.cfg.fbH * State.reset.cfg.fbW ∧
    (15 < State.reset.cfg.fbH ∧ 15 < State.reset.cfg.fbW) ∧ ¬ (15 < State.reset.cfg.fbH ∧ 16 < State.reset.cfg.fbW) :=
  ⟨List.length_replicate, by decide⟩

theorem witness_OutputsGiveRecordCodes : (after 0x00EE State.reset).faultCause = some .stackUnderflow ∧
    State.reset.faultCause = none := by decide

theorem witness_PcAfterStep :
    let s := at_ 0xE59E (withInput 0x8000 0 (withV [(5, 15)]))
    s.presentsKeys 0x8000 ∧ s.status = .running ∧ step s = .next (after 0xE59E (withInput 0x8000 0 (withV [(5, 15)]))) ∧
    (after 0xE59E (withInput 0x8000 0 (withV [(5, 15)]))).status = .running :=
  ⟨.inl ⟨⟨0x8000, 0⟩, [], rfl, rfl⟩, rfl, rfl, by decide⟩

theorem witness_PcAfterStep_free : State.reset.presentsKeys (Config.freeKeys 0) ∧
    step State.reset = .next (after 0x0000 State.reset) ∧ (after 0x0000 State.reset).status = .running :=
  ⟨.inr ⟨rfl, rfl⟩, rfl, by decide⟩

theorem witness_InstructionsWriteOnlyTheirOwn : exec (.loadRegs 15) State.reset = .next (handled (.loadRegs 15) State.reset) ∧
    (handled (.loadRegs 15) State.reset).status = .running := ⟨rfl, by decide⟩

/-- The last addresses at which each store fits; the byte just below, and for the digits none above, is outside the stored ones. -/
theorem witness_InstructionsWriteOnlyTheirOwn_stores :
    let s := { State.reset with index := 0xFFD }
    let t := { State.reset with index := 0xFF0 }
    (handled (.bcd 3) s).status = .running ∧ ¬ (s.effAddr 0 ≤ 0xFFC ∧ 0xFFC < s.effAddr 3) ∧
    (handled (.storeRegs 15) t).status = .running ∧ ¬ (t.effAddr 0 ≤ 0xFEF ∧ 0xFEF ≤ t.effAddr 15) := by decide

theorem witness_InputsReachOnlyTheirInstructions :
    (∀ x kk, Instr.cls ≠ .skp x ∧ Instr.cls ≠ .sknp x ∧ Instr.cls ≠ .ldKey x ∧ Instr.cls ≠ .rnd x kk) ∧
    exec .cls State.reset = .next (handled .cls State.reset) :=
  ⟨fun _ _ => ⟨Instr.noConfusion, Instr.noConfusion, Instr.noConfusion, Instr.noConfusion⟩, rfl⟩

theorem witness_SoundTimerAffectsNothing : step State.reset = .next (after 0x0000 State.reset) := rfl

theorem witness_flag_destination : (0 : RegIdx) ≠ vf ∧ (14 : RegIdx) ≠ vf := by decide

theorem witness_RandomByteIsMasked : (withInput 0 0xFF State.reset).inputs = [⟨0, 0xFF⟩] ∧ State.reset.inputs = [] := by decide

theorem witness_CallPushesOrOverflows : { State.reset with sp := 15 }.sp.val < 16 ∧ { State.reset with sp := 16 }.sp.val = 16 := by
  decide

theorem witness_ReturnPopsOrUnderflows : 0 < { State.reset with sp := 1 }.sp.val ∧ 0 < { State.reset with sp := 16 }.sp.val ∧
    State.reset.sp.val = 0 := by decide

theorem witness_CallThenReturnComesBack : { State.reset with sp := 15 }.sp.val < 16 := by decide

theorem witness_SkipsOnKeys : (withInput 0x8000 0 (withV [(5, 15)])).presentsKeys 0x8000 ∧
    ((withInput 0x8000 0 (withV [(5, 15)])).reg 5).toNat < 16 ∧ 16 ≤ ((withInput 0x8000 0 (withV [(5, 16)])).reg 5).toNat :=
  ⟨.inl ⟨⟨0x8000, 0⟩, [], rfl, rfl⟩, by decide⟩

theorem witness_SkipsOnKeys_free : (withV [(5, 15)]).presentsKeys (Config.freeKeys 0) ∧ ((withV [(5, 15)]).reg 5).toNat < 16 :=
  ⟨.inr ⟨rfl, rfl⟩, by decide⟩

theorem witness_WaitForKey :
    (withInput 0 0 State.reset).presentsKeys 0 ∧ (∀ k, k < 16 → (0 : BitVec 16).getLsbD k = false) ∧
    (withInput 0x8000 0 State.reset).presentsKeys 0x8000 ∧
    ((0x8000 : BitVec 16).getLsbD 15 = true ∧ ∀ j, j < 15 → (0x8000 : BitVec 16).getLsbD j = false) ∧
    (withInput 0xFFFF 0 State.reset).presentsKeys 0xFFFF ∧ (0xFFFF : BitVec 16).getLsbD 0 = true :=
  ⟨.inl ⟨⟨0, 0⟩, [], rfl, rfl⟩, by decide, .inl ⟨⟨0x8000, 0⟩, [], rfl, rfl⟩, by decide, .inl ⟨⟨0xFFFF, 0⟩, [], rfl, rfl⟩,
    by decide⟩

theorem witness_TimerReads :
    let s := at_ 0xFF07 { State.reset with pc := 0xFFE, dt := 0 }
    s.status = .running ∧ s.pc.toNat + 1 < s.cfg.memSize ∧ s.wordAtPc = wordXKK 0xF 15 0x07 := by decide

theorem witness_TimerWrites :
    let s := at_ 0xFA15 State.reset
    let t := at_ 0xF018 State.reset
    (s.status = .running ∧ s.pc.toNat + 1 < s.cfg.memSize ∧ s.wordAtPc = wordXKK 0xF 10 0x15) ∧
    (t.status = .running ∧ t.pc.toNat + 1 < t.cfg.memSize ∧ t.wordAtPc = wordXKK 0xF 0 0x18) := by decide

theorem witness_BcdStoresDigits_stores :
    let s := { State.reset with index := 0xFFD }
    let t := { strictReset with index := 0x200 }
    (s.effAddr 2 < s.cfg.memSize ∧ (s.cfg.reservedWrite = .allow ∨ 0x1FF < s.effAddr 0)) ∧
    (t.effAddr 2 < t.cfg.memSize ∧ (t.cfg.reservedWrite = .allow ∨ 0x1FF < t.effAddr 0)) := by decide

theorem witness_BcdStoresDigits_faults :
    let s := { State.reset with index := 0xFFE }
    let t := { strictReset with index := 0x1FF }
    (s.cfg.memSize ≤ s.effAddr 2 ∧ (s.cfg.reservedWrite = .allow ∨ 0x1FF < s.effAddr 0 ∨ s.cfg.memSize ≤ s.effAddr 0)) ∧
    (t.cfg.reservedWrite = .fault ∧ t.effAddr 0 ≤ 0x1FF ∧ t.effAddr 0 < t.cfg.memSize) := by decide

theorem witness_StoreRegistersToMemory_stores :
    let s := { State.reset with index := 0xFF0 }
    let t := { strictReset with index := 0x200 }
    (s.effAddr 15 < s.cfg.memSize ∧ (s.cfg.reservedWrite = .allow ∨ 0x1FF < s.effAddr 0)) ∧
    (t.effAddr 0 < t.cfg.memSize ∧ (t.cfg.reservedWrite = .allow ∨ 0x1FF < t.effAddr 0)) := by decide

theorem witness_StoreRegistersToMemory_faults :
    let s := { State.reset with index := 0xFF1 }
    let t := { strictReset with index := 0 }
    (s.cfg.memSize ≤ s.effAddr 15 ∧ (s.cfg.reservedWrite = .allow ∨ 0x1FF < s.effAddr 0 ∨ s.cfg.memSize ≤ s.effAddr 0)) ∧
    (t.cfg.reservedWrite = .fault ∧ t.effAddr 0 ≤ 0x1FF ∧ t.effAddr 0 < t.cfg.memSize) := by decide

theorem witness_LoadRegistersFromMemory :
    { State.reset with index := 0xFF0 }.effAddr 15 < State.reset.cfg.memSize ∧
    State.reset.cfg.memSize ≤ { State.reset with index := 0xFF1 }.effAddr 15 := by decide

/-- Fx55 up to the last byte of memory, so that its last word is the last one in it. -/
theorem witness_StoredWordIsFetched_words :
    let s := { withV [(14, 0x12), (15, 0x18)] with index := 0xFF0 }
    s.status = .running ∧ exec (.storeRegs 15) s = .next (handled (.storeRegs 15) s) ∧
    (handled (.storeRegs 15) s).status = .running ∧ ((15 : RegIdx).val = (14 : RegIdx).val + 1 ∧ (15 : RegIdx) ≤ 15) ∧
    (0xFFE : Word).toNat = s.effAddr 14 ∧ (0xFEF : Word).toNat + 1 = s.effAddr 0 := ⟨rfl, rfl, by decide⟩

/-- Fx55 with one register, one byte short of the end of memory: only one byte of each fetched word is a stored one. -/
theorem witness_StoredWordIsFetched_last_byte :
    let s := { withV [(0, 0x12)] with index := 0xFFE }
    s.status = .running ∧ exec (.storeRegs 0) s = .next (handled (.storeRegs 0) s) ∧
    (handled (.storeRegs 0) s).status = .running ∧ (0xFFE : Word).toNat = s.effAddr 0 ∧ (0xFFE : Word).toNat + 1 < s.cfg.memSize :=
  ⟨rfl, rfl, by decide⟩

theorem witness_StoredWordIsFetched_digits :
    let s := { withV [(3, 234)] with index := 0xFFC }
    s.status = .running ∧ exec (.bcd 3) s = .next (handled (.bcd 3) s) ∧ (handled (.bcd 3) s).status = .running ∧
    ((2 : Byte).toNat = (s.reg 3).toNat / 100 ∧ (3 : Byte).toNat = (s.reg 3).toNat / 10 % 10 ∧ (4 : Byte).toNat = (s.reg 3).toNat % 10) ∧
    (0xFFC : Word).toNat = s.effAddr 0 ∧ (0xFFD : Word).toNat = s.effAddr 1 ∧ (0xFFB : Word).toNat + 1 = s.effAddr 0 ∧
    (0xFFE : Word).toNat = s.effAddr 2 ∧ (0xFFE : Word).toNat + 1 < s.cfg.memSize := ⟨rfl, rfl, by decide⟩

/-- Each store over its own word: the step runs on the word it fetched. -/
theorem witness_StoredWordIsFetched_own_word :
    let s := at_ 0xF155 { State.reset with index := 0x200 }
    let t := at_ 0xF333 { State.reset with index := 0x200 }
    step s = .next (after 0xF155 { State.reset with index := 0x200 }) ∧ s.wordAtPc = wordXKK 0xF 1 0x55 ∧
    step t = .next (after 0xF333 { State.reset with index := 0x200 }) ∧ t.wordAtPc = wordXKK 0xF 3 0x33 ∧
    s.status = .running ∧ t.status = .running ∧ (after 0xF155 { State.reset with index := 0x200 }).status = .running ∧
    (after 0xF333 { State.reset with index := 0x200 }).status = .running := ⟨rfl, by decide, rfl, by decide⟩

theorem witness_ClearScreen :
    let s := at_ 0x00E0 { State.reset with pc := 0xFFE }
    s.status = .running ∧ s.pc.toNat + 1 < s.cfg.memSize ∧ s.wordAtPc = 0x00E0 := by decide

theorem witness_DrawXorsSpriteBits : spriteState.fb.length = spriteState.cfg.fbH * spriteState.cfg.fbW ∧
    (∀ row, row < (1 : Fin 16).val → spriteState.index.toNat + row < spriteState.cfg.memSize) ∧
    spriteState.cfg.spriteEdge = .clip ∧ spriteState.onScreen 0 15 ∧ spriteState.spriteBit 1 2 1 0 15 = true ∧
    (spriteState.togglePixel 0 15).pixel 0 15 = true ∧ ¬ spriteState.onScreen 0 16 :=
  ⟨List.length_replicate, by unfold State.onScreen; decide⟩

theorem witness_DrawXorsSpriteBits_edge :
    let s := { withMem 0x300 [0x80] (strictReset.setReg 1 15) with index := 0x300 }
    s.cfg.spriteEdge = .fault ∧ (∀ row, row < (1 : Fin 16).val → s.index.toNat + row < s.cfg.memSize) ∧
    s.spriteBit 1 2 1 0 15 = true ∧ ∀ r c, s.spriteBit 1 2 1 r c = true → s.onScreen r c := by
  refine ⟨rfl, by decide, by decide, fun r c h => ?_⟩
  have hb : r < 1 ∧ 15 ≤ c ∧ c < 23 := by
    simp only [State.spriteBit, Bool.and_eq_true, decide_eq_true_eq] at h
    obtain ⟨⟨-, h1, h2, h3⟩, -⟩ := h
    exact ⟨h1, h2, h3⟩
  obtain ⟨h1, h2, h3⟩ := hb
  obtain rfl : r = 0 := by omega
  interval_cases c
  · exact ⟨by decide, by decide⟩
  all_goals exact absurd h (by decide)

theorem witness_DrawReportsFirstFailingCheck_read :
    let s := { State.reset with index := 0xFFE }
    2 < (3 : Fin 16).val ∧ (∀ k, k < 2 → s.index.toNat + k < s.cfg.memSize) ∧ s.cfg.memSize ≤ s.index.toNat + 2 ∧
      s.cfg.spriteEdge = .clip := by decide

theorem witness_DrawReportsFirstFailingCheck_edge :
    let s := { withMem 0x300 [0xFF] (strictReset.setReg 1 15) with index := 0x300 }
    0 < (1 : Fin 16).val ∧ 0 = (s.reg 2).toNat % s.cfg.fbH + 0 ∧ 16 = (s.reg 1).toNat % s.cfg.fbW + 1 ∧
    s.cfg.spriteEdge = .fault ∧ (∀ k, k ≤ 0 → s.index.toNat + k < s.cfg.memSize) ∧ s.spriteBit 1 2 1 0 16 = true ∧
    ¬ s.onScreen 0 16 ∧
    ∀ r' c', s.spriteBit 1 2 1 r' c' = true → (r' < 0 ∨ (r' = 0 ∧ c' < 16)) → s.onScreen r' c' := by
  refine ⟨by decide, rfl, by decide, rfl, ?_, by decide, fun h => absurd h.2 (by decide), fun r c h h2 => ?_⟩
  · intro k hk
    obtain rfl : k = 0 := by omega
    decide
  · obtain ⟨rfl, hc⟩ : r = 0 ∧ c < 16 := by omega
    exact ⟨show 0 < 16 by decide, show c < 16 from hc⟩

theorem witness_DoubleDrawRestores : (1 : RegIdx) ≠ vf ∧ (2 : RegIdx) ≠ vf ∧
    spriteState.fb.length = spriteState.cfg.fbH * spriteState.cfg.fbW ∧ spriteState.status = .running ∧
    (handled (.drw 1 2 1) spriteState).status = .running ∧ spriteState.onScreen 15 15 :=
  ⟨by decide, by decide, List.length_replicate, by unfold State.onScreen; decide⟩

theorem witness_NoOpOnlyAdvances :
    let s := at_ 0xF0FF { State.reset with pc := 0xFFE }
    s.status = .running ∧ s.pc.toNat + 1 < s.cfg.memSize ∧ inNoOpSpace s.wordAtPc = true := by decide

end Sys2Proof.Tests
end

