-- ==== Sys2Proof/Proofs/Reset.lean ====
section
/-! SUPPORT. What the RESET request leaves in the state, one lemma per part (70_reset_and_hazards.md R260 to R262), and the obligation it settles. -/

namespace Sys2Proof.Machine

@[simp] theorem serve_reset (s : State) : serve s .reset = .next s.resetRequest := rfl

@[simp] theorem resetRequest_dt (s : State) : s.resetRequest.dt = 0 := rfl
@[simp] theorem resetRequest_st (s : State) : s.resetRequest.st = 0 := rfl
@[simp] theorem resetRequest_byteAt (s : State) (a : Nat) : s.resetRequest.byteAt a = resetByte s.cfg a := rfl

@[simp] theorem resetRequest_reg (s : State) (j : RegIdx) : s.resetRequest.reg j = 0 :=
  Vector.getElem_replicate j.isLt

/-- The constraints of R6 keep ENTRY within the 16 bits of `pc`. -/
theorem entry_lt_of_wf {c : Config} (h : c.wf) : c.entry < 2 ^ 16 := by
  obtain ⟨hmem, hentry, -⟩ := h
  omega

theorem resetRequest_pc_toNat {s : State} (h : s.cfg.wf) : s.resetRequest.pc.toNat = s.cfg.entry :=
  (BitVec.toNat_ofNat s.cfg.entry 16).trans (Nat.mod_eq_of_lt (entry_lt_of_wf h))

theorem resetByte_outside_font {c : Config} {a : Nat} (h : ¬ (c.fontBase ≤ a ∧ a < c.fontBase + Config.fontBytes)) :
    resetByte c a = 0 := if_neg h

/-- Settles O19: RESET answers `resetRequest`, memory then reads as the reset contents, and the constraints of R6 keep ENTRY a
16-bit address. -/
theorem resetZeroesAndStartsAtEntry : Obligations.ResetZeroesAndStartsAtEntry := by
  unfold Obligations.ResetZeroesAndStartsAtEntry
  refine ⟨rfl, fun s hwf => ⟨s.resetRequest, serve_reset s, resetRequest_reg s, resetRequest_pc_toNat hwf,
    resetRequest_dt s, resetRequest_st s, fun a _ hfont => ?_⟩⟩
  rw [resetRequest_byteAt]
  exact resetByte_outside_font hfont

end Sys2Proof.Machine
end

