-- ==== Sys2Proof/Proofs/Encoding.lean ====
section
/-! SUPPORT. The decoder's second level by class (30_encoding.md R86 to R89), decoding of encoded words, and the obligations on the trailing-byte selectors and on the two bytes of an instruction. -/

namespace Sys2Proof

open Sys2Proof.Machine

/-! ### The classes with a second level (R85) -/

theorem decodeWord_class0 {w : Word} (h : classOf w = 0x0) : decodeWord w = decodeClass0 w := by
  simp [decodeWord, h]

theorem decodeWord_class8 {w : Word} (h : classOf w = 0x8) : decodeWord w = decodeClass8 w := by
  simp [decodeWord, h]

theorem decodeWord_classE {w : Word} (h : classOf w = 0xE) : decodeWord w = decodeClassE w := by
  simp [decodeWord, h]

theorem decodeWord_classF {w : Word} (h : classOf w = 0xF) : decodeWord w = decodeClassF w := by
  simp [decodeWord, h]

/-! ### The selectors no instruction has (R91) -/

theorem decodeClass0_unlisted {w : Word} (hcls : w ≠ 0x00E0) (hret : w ≠ 0x00EE) : decodeClass0 w = .nop w := by
  rw [decodeClass0, if_neg hcls, if_neg hret]

theorem decodeClass8_unlisted {w : Word} (h : fieldN w ∈ ([0x8, 0x9, 0xA, 0xB, 0xC, 0xD, 0xF] : List Nibble)) :
    decodeClass8 w = .nop w := by
  simp only [List.mem_cons, List.not_mem_nil, or_false] at h
  rcases h with h | h | h | h | h | h | h <;> simp [decodeClass8, h]

theorem decodeClassE_unlisted {w : Word} (h : fieldKK w ∉ ([0x9E, 0xA1] : List Byte)) : decodeClassE w = .nop w := by
  simp only [List.mem_cons, List.not_mem_nil, or_false, not_or] at h
  simp only [decodeClassE, h, if_false]

theorem decodeClassF_unlisted {w : Word}
    (h : fieldKK w ∉ ([0x07, 0x0A, 0x15, 0x18, 0x1E, 0x29, 0x33, 0x55, 0x65] : List Byte)) : decodeClassF w = .nop w := by
  simp only [List.mem_cons, List.not_mem_nil, or_false, not_or] at h
  simp only [decodeClassF, h, if_false]

/-- A word of the no-op space decodes to the no-op that carries it, class by class (R91). -/
theorem decodeWord_of_inNoOpSpace {w : Word} (h : inNoOpSpace w = true) : decodeWord w = .nop w := by
  obtain ⟨hc, hcls, hret⟩ | ⟨hc, hn⟩ | ⟨hc, hkk⟩ | ⟨hc, hkk⟩ := (inNoOpSpace_iff w).mp h
  · rw [decodeWord_class0 hc, decodeClass0_unlisted hcls hret]
  · rw [decodeWord_class8 hc, decodeClass8_unlisted hn]
  · rw [decodeWord_classE hc, decodeClassE_unlisted hkk]
  · rw [decodeWord_classF hc, decodeClassF_unlisted hkk]

/-! ### Decoding what the encoder wrote -/

/-- The fields of a formatted word are the operands it was built from (R82); a no-op's own word decodes back because
well-formedness keeps it in the no-op space (R91). -/
theorem decodeWord_encode {i : Instr} (h : i.wf = true) : decodeWord (encode i) = i := by
  cases i with
  | nop w => exact decodeWord_of_inNoOpSpace h
  | cls | ret => rfl
  | ldReg | orReg | andReg | xorReg | addReg | subReg | shr | subnReg | shl =>
    rw [encode, decodeWord_class8 (classOf_wordXYN ..)]
    simp [decodeClass8]
  | skp | sknp =>
    rw [encode, decodeWord_classE (classOf_wordXKK ..)]
    simp [decodeClassE]
  | ldVxDt | ldKey | ldDtVx | ldStVx | addI | ldFont | bcd | storeRegs | loadRegs =>
    rw [encode, decodeWord_classF (classOf_wordXKK ..)]
    simp [decodeClassF]
  | jp | call | seImm | sneImm | seReg | ldImm | addImm | sneReg | ldI | jpV0 | rnd | drw =>
    simp [encode, decodeWord, regField]

theorem decodeBytes_encodeBytes {i : Instr} (h : i.wf = true) (rest : List Byte) :
    decodeBytes (encodeBytes i ++ rest) = .ok (i, rest) := by
  simp only [encodeBytes, List.cons_append, List.nil_append, decodeBytes]
  rw [bigEndian_bytes, decodeWord_encode h]

/-- Settles O7: the decoder joins the head's two bytes by definition, the encoder's two bytes join to its word again, and a
fetch inside memory reads both bytes. -/
theorem twoBytesAreOneInstruction : Obligations.TwoBytesAreOneInstruction := by
  unfold Obligations.TwoBytesAreOneInstruction
  exact ⟨fun _ _ _ => rfl, fun _ rest h => decodeBytes_encodeBytes h rest, fetch_ok⟩

/-- Settles O5: the class picks the second-level decoder, whose trailing-byte tests are exclusive. -/
theorem familyByteSelectors : Obligations.FamilyByteSelectors := by
  unfold Obligations.FamilyByteSelectors
  intro w
  refine ⟨fun hc => ?_, fun hc => ?_⟩
  · rw [decodeWord_classE hc]
    refine ⟨?_, ?_, decodeClassE_unlisted⟩ <;> intro hkk <;> simp [decodeClassE, fieldKK, hkk]
  · rw [decodeWord_classF hc]
    refine ⟨?_, ?_, ?_, ?_, ?_, ?_, ?_, ?_, ?_, decodeClassF_unlisted⟩ <;> intro hkk <;>
      simp [decodeClassF, fieldKK, hkk]

end Sys2Proof
end

