-- ==== Sys2Proof/Proofs/Cycle.lean ====
section
/-! SUPPORT. The frame of every handler that completes (40_cycle.md R104; 10_state.md R21 to R43), what its end leaves in the two timers (R105), and the obligation on the countdown. -/

namespace Sys2Proof.Machine

/-! ### Frames of the shared operations that can raise -/

theorem Frame.mono {rs rs' : List RegIdx} {ps ps' : List Part} {s t : State} (h : Frame rs ps s t) (hr : rs ⊆ rs')
    (hp : ps ⊆ ps') : Frame rs' ps' s t :=
  ⟨fun j hj => h.1 j fun hm => hj (hr hm), fun p hpp => h.2 p fun hm => hpp (hp hm)⟩

theorem frame_clearFb (s : State) (rs : List RegIdx) : Frame rs [.framebuffer] s s.clearFb :=
  ⟨fun _ _ => rfl, fun p hp => by cases p <;> simp [Part.same] at hp ⊢⟩

theorem frame_of_callStack {s t : State} (h : t = { s with pc := t.pc, sp := t.sp, stack := t.stack }) (rs : List RegIdx) :
    Frame rs [.pc, .callStack] s t := by
  rw [h]
  exact ⟨fun _ _ => rfl, fun p hp => by cases p <;> simp [Part.same, State.byteAt, State.pixel] at hp ⊢⟩

/-- A pop and the jump after it move `pc`, SP and the slots only (R121). -/
theorem frame_pop_setPc {s t : State} {a : Word} (h : s.pop = .ok (a, t)) (rs : List RegIdx) :
    Frame rs [.pc, .callStack] s (t.setPc a) := by
  unfold State.pop at h
  split at h <;> cases h
  exact frame_of_callStack rfl rs

/-- A push and the jump after it move `pc`, SP and the slots only (R123). -/
theorem frame_push_setPc {s t : State} {a : Word} (h : s.push a = .ok t) (target : Word) (rs : List RegIdx) :
    Frame rs [.pc, .callStack] s (t.setPc target) := by
  unfold State.push at h
  split at h <;> cases h
  exact frame_of_callStack rfl rs

/-- A completed draw, with VF cleared before it, changes VF and pixels only (R191). -/
theorem frame_draw {s t : State} (h : Plotted (s.setReg vf 0) t) : Frame [vf] [.framebuffer] s t := by
  refine ⟨fun j hj => ?_, fun p hp => ?_⟩
  · have hne : j ≠ vf := by simpa using hj
    rw [h.regs j hne, reg_setReg_ne s 0 hne]
  · rw [h.eq]
    cases p <;> simp [Part.same, State.byteAt] at hp ⊢

theorem readBytes_length {s : State} {a n : Nat} {bs : List Byte} (h : s.readBytes a n = .ok bs) : bs.length = n := by
  by_cases hin : a + n ≤ s.cfg.memSize
  · rw [readBytes_ok s a n hin] at h
    cases h
    simp
  · cases n with
    | zero => cases h; rfl
    | succ n => rw [readBytes_oob s a (n + 1) (by omega) (by omega)] at h; cases h

/-- Registers past the loaded bytes keep their values (R175). -/
theorem frame_setRegs (s : State) {x : RegIdx} {bs : List Byte} (h : bs.length = x.val + 1) (ps : List Part) :
    Frame ((List.finRange 16).filter (fun j => j ≤ x)) ps s (s.setRegs bs) :=
  frame_of_regs _ rfl fun j hj => by
    have hlt : x.val < j.val := by simpa using hj
    rw [reg_setRegs, List.getD_eq_default _ _ (by omega)]

/-! ### The frame of a handler -/

/-- A handler that completes writes only its own registers and parts (R21 to R43): the raise of a handler that can fault is
excluded, because it leaves the block faulted. -/
theorem exec_frame {i : Instr} {s t : State} (h : exec i s = .next t) (ht : t.status = .running) :
    Frame (writtenRegs i) (writtenParts i) s t := by
  cases i
  case ret =>
    cases hp : s.pop with
    | error e => cases (exec_ret_error hp).symm.trans h; cases ht
    | ok p => cases (exec_ret_ok hp).symm.trans h; exact frame_pop_setPc hp _
  case call nnn =>
    cases hp : s.push s.pc with
    | error e => cases (exec_call_error nnn hp).symm.trans h; cases ht
    | ok p => cases (exec_call_ok nnn hp).symm.trans h; exact frame_push_setPc hp _ _
  case skp x =>
    cases hk : s.keyNumber x with
    | error e => cases (exec_skp_error hk).symm.trans h; cases ht
    | ok k => cases (exec_skp_ok hk).symm.trans h; exact frame_skipIf _ _ _
  case sknp x =>
    cases hk : s.keyNumber x with
    | error e => cases (exec_sknp_error hk).symm.trans h; cases ht
    | ok k => cases (exec_sknp_ok hk).symm.trans h; exact frame_skipIf _ _ _
  case ldKey x =>
    cases hk : firstPressed s.keys with
    | none => cases (exec_ldKey_none x hk).symm.trans h; exact frame_setPc _ _ _
    | some k => cases (exec_ldKey_some x hk).symm.trans h; exact frame_setReg _ _ (by simp [writtenRegs]) _
  case drw x y n =>
    cases Host.Outcome.next.inj h
    exact frame_draw (drawRows_plotted _ _ _ _ _ (settle_run ht))
  case bcd x | storeRegs x =>
    cases Host.Outcome.next.inj h
    rw [writeBytes_eq _ _ _ _ (settle_run ht)]
    exact frame_setBytes _ _ _ _
  case loadRegs x =>
    cases hr : s.readBytes (s.effAddr 0) (x.val + 1) with
    | error e => cases (exec_loadRegs_error hr).symm.trans h; cases ht
    | ok bs => cases (exec_loadRegs_ok hr).symm.trans h; exact frame_setRegs s (readBytes_length hr) _
  all_goals cases Host.Outcome.next.inj h
  case cls => exact frame_clearFb _ _
  case jp | jpV0 => exact frame_setPc _ _ _
  case seImm | sneImm | seReg | sneReg => exact frame_skipIf _ _ _
  case ldI | addI | ldFont => exact frame_setIndex _ _ _
  case ldDtVx => exact frame_setDt _ _ _
  case ldStVx => exact frame_setSt _ _ _
  case nop => exact frame_refl _ _ _
  case addReg | subReg | shr | subnReg | shl =>
    exact (frame_writeFlagged _ _ _ _).mono (by simp [writtenRegs]) (List.Subset.refl _)
  case ldImm | addImm | ldReg | orReg | andReg | xorReg | rnd | ldVxDt =>
    exact frame_setReg _ _ (by simp [writtenRegs]) _

/-! ### The timers -/

/-- Only Fx15 writes DT (R35, R211). -/
theorem exec_keeps_dt {i : Instr} {s t : State} (h : exec i s = .next t) (ht : t.status = .running)
    (hi : ∀ x, i ≠ .ldDtVx x) : t.dt = s.dt := by
  have hdt : Part.dt ∉ writtenParts i := by
    cases i with
    | ldDtVx x => exact absurd rfl (hi x)
    | _ => simp [writtenParts]
  exact (exec_frame h ht).2 .dt hdt

/-- Only Fx18 writes ST (R35, R212). -/
theorem exec_keeps_st {i : Instr} {s t : State} (h : exec i s = .next t) (ht : t.status = .running)
    (hi : ∀ x, i ≠ .ldStVx x) : t.st = s.st := by
  have hst : Part.st ∉ writtenParts i := by
    cases i with
    | ldStVx x => exact absurd rfl (hi x)
    | _ => simp [writtenParts]
  exact (exec_frame h ht).2 .st hst

/-- A step that ends running fetched its word, completed the handler, and ended with the countdown and the outputs (R100). -/
theorem step_completed {s t : State} (h : step s = .next t) (ht : t.status = .running) :
    ∃ u, exec (decodeWord s.wordAtPc) (s.afterFetch s.wordAtPc) = .next u ∧ u.status = .running ∧
      t = (u.complete (decodeWord s.wordAtPc)).nextInput := by
  obtain ⟨hs, rfl⟩ | ⟨-, e, -, rfl⟩ | ⟨-, w, u, hf, hu, rfl⟩ := step_cases h
  · rw [hs] at ht; cases ht
  · cases ht
  · have hw : w = s.wordAtPc := (fetch_word hf).2
    subst hw
    rw [finish_status] at ht
    exact ⟨u, hu, ht, finish_running _ ht⟩

/-- Settles O11: a completed step ends with the countdown of what its handler left in the timers, and the handler's frame
leaves DT to Fx15 and ST to Fx18. -/
theorem timersCountDownAfterHandler : Obligations.TimersCountDownAfterHandler := by
  unfold Obligations.TimersCountDownAfterHandler
  intro s t _ h ht
  obtain ⟨u, hu, hrun, rfl⟩ := step_completed h ht
  refine ⟨u, hu, countDown_toNat u.dt, countDown_toNat u.st, ?_, ?_⟩
  · split
    next x hi => rw [hi] at hu; cases hu; rfl
    next hi => exact (exec_keeps_dt hu hrun hi).trans (afterFetch_dt _ _)
  · split
    next x hi => rw [hi] at hu; cases hu; rfl
    next hi => exact (exec_keeps_st hu hrun hi).trans (afterFetch_st _ _)

end Sys2Proof.Machine
end

