-- ==== Sys2Proof/Proofs/ControlFlow.lean ====
section
/-! SUPPORT. What the handlers of the jump and of the skips on an immediate answer, `pc` after a conditional skip, and the obligations on the two (41_control_flow.md R120, R122, R124, R125). -/

namespace Sys2Proof.Machine

/-! ### Handlers that always complete -/

theorem exec_jp (nnn : Addr12) (s : State) : exec (.jp nnn) s = .next (s.setPc (zext12 nnn)) := rfl

theorem exec_seImm (x : RegIdx) (kk : Byte) (s : State) :
    exec (.seImm x kk) s = .next (s.skipIf (s.reg x == kk)) := rfl

theorem exec_sneImm (x : RegIdx) (kk : Byte) (s : State) :
    exec (.sneImm x kk) s = .next (s.skipIf (s.reg x != kk)) := rfl

/-! ### The value `pc` takes -/

/-- Zero extension from 12 to 16 bits keeps the number (R83). -/
@[simp] theorem zext12_toNat (nnn : Addr12) : (zext12 nnn).toNat = nnn.toNat :=
  BitVec.toNat_setWidth_of_le (by decide)

theorem skipIf_beq_pc (s : State) (a b : Byte) : (s.skipIf (a == b)).pc = if a = b then s.pc + 2 else s.pc := by
  rw [skipIf_pc]
  simp only [beq_iff_eq]

theorem skipIf_bne_pc (s : State) (a b : Byte) : (s.skipIf (a != b)).pc = if a = b then s.pc else s.pc + 2 := by
  rw [skipIf_pc]
  simp only [bne_iff_ne, ne_eq, ite_not]

/-- Settles O35: the handler writes the zero-extended operand into `pc`, and only there. -/
theorem jumpSetsPc : Obligations.JumpSetsPc := by
  unfold Obligations.JumpSetsPc
  intro nnn s
  exact ⟨decodeWord_encode (i := .jp nnn) rfl, _, exec_jp nnn s, zext12_toNat nnn, frame_setPc _ _ _⟩

/-- Settles O40: both handlers are a conditional skip, on the equality test and on its negation. -/
theorem skipsOnImmediate : Obligations.SkipsOnImmediate := by
  unfold Obligations.SkipsOnImmediate
  intro x kk s
  refine ⟨decodeWord_encode (i := .seImm x kk) rfl, decodeWord_encode (i := .sneImm x kk) rfl, ?_, ?_⟩
  · exact ⟨_, exec_seImm x kk s, skipIf_beq_pc _ _ _, frame_skipIf _ _ _⟩
  · exact ⟨_, exec_sneImm x kk s, skipIf_bne_pc _ _ _, frame_skipIf _ _ _⟩

end Sys2Proof.Machine
end

