-- ==== Sys2Proof/Proofs/Alu.lean ====
section
/-! SUPPORT. Numeric readings of the flagged results, what the handlers of the ALU answer, and the obligations on the immediate loads, the sum, the differences and the shifts (42_alu.md R140 to R142, R147 to R151). -/

namespace Sys2Proof.Machine

/-! ### Results and flags as numbers -/

theorem flagByte_decide (p : Prop) [Decidable p] : flagByte (decide p) = if p then 1 else 0 := by
  simp only [flagByte, decide_eq_true_eq]

theorem flagByte_toNat (b : Bool) : (flagByte b).toNat = b.toNat := by
  cases b <;> rfl

theorem addFlagged_result_toNat (a b : Byte) : (addFlagged a b).result.toNat = (a.toNat + b.toNat) % 256 :=
  BitVec.toNat_ofNat ..

theorem addFlagged_flag (a b : Byte) : (addFlagged a b).flag = if a.toNat + b.toNat > 255 then 1 else 0 :=
  flagByte_decide _

theorem subFlagged_result_toNat (a b : Byte) :
    (subFlagged a b).result.toNat = (a.toNat + 256 - b.toNat) % 256 := by
  have hdiff : (subFlagged a b).result.toNat = (256 - b.toNat + a.toNat) % 256 := BitVec.toNat_sub a b
  have hb : b.toNat < 256 := b.isLt
  rw [hdiff]
  congr 1
  omega

theorem subFlagged_flag (a b : Byte) : (subFlagged a b).flag = if a.toNat > b.toNat then 1 else 0 :=
  flagByte_decide _

theorem shrFlagged_result_toNat (a : Byte) : (shrFlagged a).result.toNat = a.toNat / 2 := by
  rw [shrFlagged, BitVec.toNat_ushiftRight, Nat.shiftRight_eq_div_pow, pow_one]

theorem shrFlagged_flag_toNat (a : Byte) : (shrFlagged a).flag.toNat = a.toNat % 2 := by
  rw [shrFlagged, flagByte_toNat, BitVec.getLsbD, Nat.toNat_testBit, pow_zero, Nat.div_one]

theorem shlFlagged_result_toNat (a : Byte) : (shlFlagged a).result.toNat = a.toNat * 2 % 256 := by
  rw [shlFlagged, BitVec.toNat_shiftLeft, Nat.shiftLeft_eq, pow_one]

theorem shlFlagged_flag_toNat (a : Byte) : (shlFlagged a).flag.toNat = a.toNat / 128 % 2 := by
  rw [shlFlagged, flagByte_toNat, BitVec.getLsbD, Nat.toNat_testBit]

/-! ### Handlers that write a result and its flag -/

/-- The flag goes first, so that it stays in VF only where the result goes to another register (R22, R142). -/
theorem exec_flagged {i : Instr} {s : State} {x : RegIdx} {r : Flagged} (h : exec i s = .next (s.writeFlagged x r)) :
    ∃ t, exec i s = .next t ∧ t.reg x = r.result ∧ (x ≠ vf → t.reg vf = r.flag) ∧ Frame [x, vf] [] s t := by
  refine ⟨_, h, ?_, fun hx => ?_, frame_writeFlagged s x r []⟩
  · rw [reg_writeFlagged, if_pos rfl]
  · rw [reg_writeFlagged, if_neg hx.symm, if_pos rfl]

theorem exec_ldImm (x : RegIdx) (kk : Byte) (s : State) : exec (.ldImm x kk) s = .next (s.setReg x kk) := rfl

theorem exec_addImm (x : RegIdx) (kk : Byte) (s : State) :
    exec (.addImm x kk) s = .next (s.setReg x (s.reg x + kk)) := rfl

theorem exec_addReg (x y : RegIdx) (s : State) :
    exec (.addReg x y) s = .next (s.writeFlagged x (addFlagged (s.reg x) (s.reg y))) := rfl

theorem exec_subReg (x y : RegIdx) (s : State) :
    exec (.subReg x y) s = .next (s.writeFlagged x (subFlagged (s.reg x) (s.reg y))) := rfl

theorem exec_subnReg (x y : RegIdx) (s : State) :
    exec (.subnReg x y) s = .next (s.writeFlagged x (subFlagged (s.reg y) (s.reg x))) := rfl

theorem exec_shr (x y : RegIdx) (s : State) :
    exec (.shr x y) s = .next (s.writeFlagged x (shrFlagged (s.reg x))) := rfl

theorem exec_shl (x y : RegIdx) (s : State) :
    exec (.shl x y) s = .next (s.writeFlagged x (shlFlagged (s.reg x))) := rfl

/-! ### The obligations -/

/-- Settles O29: each handler is one register write, of the immediate or of the sum with it. -/
theorem loadAndAddImmediate : Obligations.LoadAndAddImmediate := by
  unfold Obligations.LoadAndAddImmediate
  intro x kk s
  refine ⟨decodeWord_encode (i := .ldImm x kk) rfl, decodeWord_encode (i := .addImm x kk) rfl, ?_, ?_⟩
  · exact ⟨_, exec_ldImm x kk s, reg_setReg_self s x kk, frame_setReg s kk (List.mem_singleton_self x) []⟩
  · refine ⟨_, exec_addImm x kk s, ?_, frame_setReg s _ (List.mem_singleton_self x) []⟩
    rw [reg_setReg_self, BitVec.toNat_add]

/-- Settles O31: the handler writes the low byte of the 9-bit sum and its carry. -/
theorem addSetsCarry : Obligations.AddSetsCarry := by
  unfold Obligations.AddSetsCarry
  intro x y s
  obtain ⟨t, ht, hx, hvf, hframe⟩ := exec_flagged (exec_addReg x y s)
  refine ⟨decodeWord_encode (i := .addReg x y) rfl, t, ht, ?_, fun hne => ?_, hframe⟩
  · rw [hx, addFlagged_result_toNat]
  · rw [hvf hne, addFlagged_flag]

/-- Settles O32: both handlers write one subtraction, with the operands swapped in SUBN. -/
theorem subtractsSetStrictFlag : Obligations.SubtractsSetStrictFlag := by
  unfold Obligations.SubtractsSetStrictFlag
  intro x y s
  refine ⟨decodeWord_encode (i := .subReg x y) rfl, decodeWord_encode (i := .subnReg x y) rfl, ?_, ?_⟩
  · obtain ⟨t, ht, hx, hvf, hframe⟩ := exec_flagged (exec_subReg x y s)
    refine ⟨t, ht, ?_, fun hne => ?_, hframe⟩
    · rw [hx, subFlagged_result_toNat]
    · rw [hvf hne, subFlagged_flag]
  · obtain ⟨t, ht, hx, hvf, hframe⟩ := exec_flagged (exec_subnReg x y s)
    refine ⟨t, ht, ?_, fun hne => ?_, hframe⟩
    · rw [hx, subFlagged_result_toNat]
    · rw [hvf hne, subFlagged_flag]

/-- Settles O33: a shift by one halves or doubles the byte, and the bit shifted out is bit 0 or bit 7. -/
theorem shiftsSetBitOut : Obligations.ShiftsSetBitOut := by
  unfold Obligations.ShiftsSetBitOut
  intro x y s
  refine ⟨decodeWord_encode (i := .shr x y) rfl, decodeWord_encode (i := .shl x y) rfl, ?_, ?_⟩
  · obtain ⟨t, ht, hx, hvf, hframe⟩ := exec_flagged (exec_shr x y s)
    refine ⟨t, ht, ?_, fun hne => ?_, hframe⟩
    · rw [hx, shrFlagged_result_toNat]
    · rw [hvf hne, shrFlagged_flag_toNat]
  · obtain ⟨t, ht, hx, hvf, hframe⟩ := exec_flagged (exec_shl x y s)
    refine ⟨t, ht, ?_, fun hne => ?_, hframe⟩
    · rw [hx, shlFlagged_result_toNat]
    · rw [hvf hne, shlFlagged_flag_toNat]

end Sys2Proof.Machine
end

