-- ==== Sys2Proof/Proofs/IndexMemory.lean ====
section
/-! SUPPORT. What the handler of the index load answers, and the obligation on it (43_index_memory.md R170). -/

namespace Sys2Proof.Machine

theorem exec_ldI (nnn : Addr12) (s : State) : exec (.ldI nnn) s = .next (s.setIndex (zext12 nnn)) := rfl

/-- Settles O46: the handler writes the zero-extended operand into `I`, and only there. -/
theorem loadIndex : Obligations.LoadIndex := by
  unfold Obligations.LoadIndex
  intro nnn s
  exact ⟨decodeWord_encode (i := .ldI nnn) rfl, _, exec_ldI nnn s, zext12_toNat nnn, frame_setIndex _ _ _⟩

end Sys2Proof.Machine
end

