-- ==== Sys2Proof/Proofs/Display.lean ====
section
/-! SUPPORT. A step that completes, from its handler's answer; the framebuffer after CLS; and the obligation on CLS (40_cycle.md R100; 44_display.md R190). -/

namespace Sys2Proof.Machine

/-- A running block with its word in memory whose handler completes ends the step with the countdown and the outputs (R100). -/
theorem step_of_completed {s u : State} (hs : s.status = .running) (hpc : s.pc.toNat + 1 < s.cfg.memSize)
    (hu : exec (decodeWord s.wordAtPc) (s.afterFetch s.wordAtPc) = .next u) (hrun : u.status = .running) :
    step s = .next (u.complete (decodeWord s.wordAtPc)).nextInput := by
  have hfetch : s.fetch = .ok s.wordAtPc := fetch_ok s hpc
  rw [step_of_exec hs hfetch hu, finish_running _ hrun]

@[simp] theorem clearFb_pixel (s : State) (r c : Nat) : s.clearFb.pixel r c = false := by
  rw [State.pixel, clearFb_fb, List.getD_eq_getElem?_getD, List.getElem?_getD_replicate_default_eq]

theorem exec_cls (s : State) : exec .cls s = .next s.clearFb := rfl

/-- Settles O52: the handler is `clearFb`, and the end of a step keeps the pixels it cleared. -/
theorem clearScreen : Obligations.ClearScreen := by
  unfold Obligations.ClearScreen
  intro s
  have hdec : decodeWord 0x00E0 = .cls := decodeWord_encode (i := .cls) rfl
  refine ⟨hdec, ⟨_, exec_cls s, List.length_replicate, clearFb_pixel s, frame_clearFb s []⟩, fun hs hpc hw => ?_⟩
  have hcls : decodeWord s.wordAtPc = .cls := by rw [hw, hdec]
  refine ⟨_, step_of_completed (u := (s.afterFetch s.wordAtPc).clearFb) hs hpc (by rw [hcls, exec_cls]) hs, ?_⟩
  rw [hcls]
  exact ⟨rfl, rfl, hs, clearFb_pixel _⟩

end Sys2Proof.Machine
end

