-- ==== Sys2Proof/Proofs/TimersInput.lean ====
section
/-! SUPPORT. What the handlers of the timer writes and the steps around them answer, and the obligation on the two (45_timers_input.md R211, R212). -/

namespace Sys2Proof.Machine

theorem exec_ldDtVx (x : RegIdx) (s : State) : exec (.ldDtVx x) s = .next (s.setDt (s.reg x)) := rfl

theorem exec_ldStVx (x : RegIdx) (s : State) : exec (.ldStVx x) s = .next (s.setSt (s.reg x)) := rfl

/-! ### The whole step: the fetch leaves V[x] alone, and the countdown comes after the handler (R105) -/

theorem step_ldDtVx {s : State} {x : RegIdx} (hs : s.status = .running) (hpc : s.pc.toNat + 1 < s.cfg.memSize)
    (hi : decodeWord s.wordAtPc = .ldDtVx x) :
    step s = .next (((s.afterFetch s.wordAtPc).setDt (s.reg x)).complete (.ldDtVx x)).nextInput := by
  have hu : exec (decodeWord s.wordAtPc) (s.afterFetch s.wordAtPc) = .next ((s.afterFetch s.wordAtPc).setDt (s.reg x)) := by
    rw [hi, exec_ldDtVx, afterFetch_reg]
  rw [step_of_completed hs hpc hu hs, hi]

theorem step_ldStVx {s : State} {x : RegIdx} (hs : s.status = .running) (hpc : s.pc.toNat + 1 < s.cfg.memSize)
    (hi : decodeWord s.wordAtPc = .ldStVx x) :
    step s = .next (((s.afterFetch s.wordAtPc).setSt (s.reg x)).complete (.ldStVx x)).nextInput := by
  have hu : exec (decodeWord s.wordAtPc) (s.afterFetch s.wordAtPc) = .next ((s.afterFetch s.wordAtPc).setSt (s.reg x)) := by
    rw [hi, exec_ldStVx, afterFetch_reg]
  rw [step_of_completed hs hpc hu hs, hi]

/-- Settles O45: each handler writes V[x] into its timer and nothing else, and the countdown of the same step is a truncated
subtraction from it. -/
theorem timerWrites : Obligations.TimerWrites := by
  unfold Obligations.TimerWrites
  intro x s
  have hdt : decodeWord (wordXKK 0xF x 0x15) = .ldDtVx x := decodeWord_encode (i := .ldDtVx x) rfl
  have hst : decodeWord (wordXKK 0xF x 0x18) = .ldStVx x := decodeWord_encode (i := .ldStVx x) rfl
  refine ⟨hdt, hst, ⟨_, exec_ldDtVx x s, rfl, frame_setDt _ _ _⟩, ⟨_, exec_ldStVx x s, rfl, frame_setSt _ _ _⟩,
    fun hs hpc hw => ?_, fun hs hpc hw => ?_⟩
  · exact ⟨_, step_ldDtVx hs hpc (hw ▸ hdt), countDown_toNat (s.reg x)⟩
  · exact ⟨_, step_ldStVx hs hpc (hw ▸ hst), countDown_toNat (s.reg x)⟩

end Sys2Proof.Machine
end

