-- ==== Sys2Proof/Proofs/Other.lean ====
section
/-! SUPPORT. The decoder and the encoder as inverses, the opcode map and the no-op space (30_encoding.md R80 to R96); the invariant of a step and of the requests, what a fault was, the draw as its points (44_display.md), and what reset, the ports and each remaining instruction do; and the obligations on them. -/

namespace Sys2Proof

open Sys2Proof.Machine

/-! ### Encoding what the decoder read (R92, R96) -/

/-- The selector names the operation, and the operands are the word's own fields (R82, R87). -/
theorem encode_decodeClass8 {w : Word} (h : classOf w = 0x8) : encode (decodeClass8 w) = w := by
  have hw := wordXYN_fields w
  rw [h] at hw
  have hn : fieldN w = BitVec.ofNat 4 (fieldN w).toNat := by simp
  unfold decodeClass8
  split
  case h_10 => rfl
  all_goals
    rename_i hsel
    rw [hn, hsel] at hw
    exact hw

theorem encode_decodeClassE {w : Word} (h : classOf w = 0xE) : encode (decodeClassE w) = w := by
  have hw := wordXKK_fields w
  rw [h] at hw
  unfold decodeClassE
  split_ifs
  case neg => rfl
  all_goals (rw [‹fieldKK w = _›] at hw; exact hw)

theorem encode_decodeClassF {w : Word} (h : classOf w = 0xF) : encode (decodeClassF w) = w := by
  have hw := wordXKK_fields w
  rw [h] at hw
  unfold decodeClassF
  split_ifs
  case neg => rfl
  all_goals (rw [‹fieldKK w = _›] at hw; exact hw)

theorem encode_decodeClass0 (w : Word) : encode (decodeClass0 w) = w := by
  unfold decodeClass0
  split_ifs with hcls hret
  · exact hcls.symm
  · exact hret.symm
  · rfl

theorem regField_toFin (n : Nibble) : regField n.toFin = n := by
  simp [regField]

/-- Every word is put back together from what it decodes to: the class by class argument of R92. -/
theorem encode_decodeWord (w : Word) : encode (decodeWord w) = w := by
  have hc : classOf w = BitVec.ofNat 4 (classOf w).toNat := by simp
  unfold decodeWord
  split
  case h_1 => exact encode_decodeClass0 w
  case h_9 hsel => exact encode_decodeClass8 (by rw [hc, hsel]; rfl)
  case h_15 hsel => exact encode_decodeClassE (by rw [hc, hsel]; rfl)
  case h_16 hsel => exact encode_decodeClassF (by rw [hc, hsel]; rfl)
  case h_17 => rfl
  case h_2 hsel | h_3 hsel | h_11 hsel | h_12 hsel =>
    have hw := wordNNN_fields w
    rw [hc, hsel] at hw
    exact hw
  case h_4 hsel | h_5 hsel | h_7 hsel | h_8 hsel | h_13 hsel =>
    have hw := wordXKK_fields w
    rw [hc, hsel] at hw
    exact hw
  case h_6 hsel | h_10 hsel =>
    have hw := wordXYN_fields w
    rw [hc, hsel] at hw
    exact hw
  case h_14 hsel =>
    have hw := wordXYN_fields w
    rw [hc, hsel, ← regField_toFin (fieldN w)] at hw
    exact hw

/-! ### What a word decodes to is well-formed (R91) -/

/-! A word that none of its class's selectors names is in the no-op space. -/

theorem wf_of_decodeClass0 {w : Word} (h : classOf w = 0x0) : (decodeClass0 w).wf = true := by
  unfold decodeClass0
  split_ifs with hcls hret
  · rfl
  · rfl
  · exact (inNoOpSpace_iff w).mpr (.inl ⟨h, hcls, hret⟩)

theorem wf_of_decodeClass8 {w : Word} (h : classOf w = 0x8) : (decodeClass8 w).wf = true := by
  have hsel : ∀ n : Nibble, n ∈ ([0x8, 0x9, 0xA, 0xB, 0xC, 0xD, 0xF] : List Nibble) ∨
      n ∈ ([0x0, 0x1, 0x2, 0x3, 0x4, 0x5, 0x6, 0x7, 0xE] : List Nibble) := by decide
  rcases hsel (fieldN w) with hn | hn
  · rw [decodeClass8_unlisted hn]
    exact (inNoOpSpace_iff w).mpr (.inr (.inl ⟨h, hn⟩))
  · simp only [List.mem_cons, List.not_mem_nil, or_false] at hn
    rcases hn with hn | hn | hn | hn | hn | hn | hn | hn | hn <;> rw [decodeClass8, hn] <;> rfl

theorem wf_of_decodeClassE {w : Word} (h : classOf w = 0xE) : (decodeClassE w).wf = true := by
  unfold decodeClassE
  split_ifs
  case neg =>
    refine (inNoOpSpace_iff w).mpr (.inr (.inr (.inl ⟨h, ?_⟩)))
    simp only [List.mem_cons, *, List.not_mem_nil, or_self, not_false_eq_true]
  all_goals rfl

theorem wf_of_decodeClassF {w : Word} (h : classOf w = 0xF) : (decodeClassF w).wf = true := by
  unfold decodeClassF
  split_ifs
  case neg =>
    refine (inNoOpSpace_iff w).mpr (.inr (.inr (.inr ⟨h, ?_⟩)))
    simp only [List.mem_cons, *, List.not_mem_nil, or_self, not_false_eq_true]
  all_goals rfl

/-- The classes are 0x0 to 0xF, so that no word reaches the top-level default. -/
theorem wf_decodeWord (w : Word) : (decodeWord w).wf = true := by
  have hc : classOf w = BitVec.ofNat 4 (classOf w).toNat := by simp
  unfold decodeWord
  split
  case h_1 hsel => exact wf_of_decodeClass0 (by rw [hc, hsel]; rfl)
  case h_9 hsel => exact wf_of_decodeClass8 (by rw [hc, hsel]; rfl)
  case h_15 hsel => exact wf_of_decodeClassE (by rw [hc, hsel]; rfl)
  case h_16 hsel => exact wf_of_decodeClassF (by rw [hc, hsel]; rfl)
  case h_17 => have := (classOf w).isLt; grind
  all_goals rfl

/-- Settles O1: the fields of an encoded word are the operands it was built from. -/
theorem decodeInvertsEncode : Obligations.DecodeInvertsEncode := by
  unfold Obligations.DecodeInvertsEncode
  exact fun _ h => decodeWord_encode h

/-- Settles O2: decoding and encoding are inverse to each other, so the instruction is the only one. -/
theorem everyWordIsOneInstruction : Obligations.EveryWordIsOneInstruction := by
  unfold Obligations.EveryWordIsOneInstruction
  refine fun w => ⟨wf_decodeWord w, encode_decodeWord w, fun i hi hw => ?_⟩
  rw [← hw, decodeWord_encode hi]

/-- Settles O6: the sixteen words are closed terms, and the decoder computes. -/
theorem sampleWordsDecode : Obligations.SampleWordsDecode := by
  unfold Obligations.SampleWordsDecode
  decide

/-! ### The opcode map (R93) -/

/-- Each instruction's lemma of the opcode map, as one lemma. -/
theorem encodesItsRow (i : Instr) : Laws.EncodesItsRow.Statement i := by
  cases i with
  | cls => exact Laws.EncodesItsRow.cls
  | ret => exact Laws.EncodesItsRow.ret
  | jp => exact Laws.EncodesItsRow.jp _
  | call => exact Laws.EncodesItsRow.call _
  | seImm => exact Laws.EncodesItsRow.seImm _ _
  | sneImm => exact Laws.EncodesItsRow.sneImm _ _
  | seReg => exact Laws.EncodesItsRow.seReg _ _ _
  | ldImm => exact Laws.EncodesItsRow.ldImm _ _
  | addImm => exact Laws.EncodesItsRow.addImm _ _
  | ldReg => exact Laws.EncodesItsRow.ldReg _ _
  | orReg => exact Laws.EncodesItsRow.orReg _ _
  | andReg => exact Laws.EncodesItsRow.andReg _ _
  | xorReg => exact Laws.EncodesItsRow.xorReg _ _
  | addReg => exact Laws.EncodesItsRow.addReg _ _
  | subReg => exact Laws.EncodesItsRow.subReg _ _
  | shr => exact Laws.EncodesItsRow.shr _ _
  | subnReg => exact Laws.EncodesItsRow.subnReg _ _
  | shl => exact Laws.EncodesItsRow.shl _ _
  | sneReg => exact Laws.EncodesItsRow.sneReg _ _ _
  | ldI => exact Laws.EncodesItsRow.ldI _
  | jpV0 => exact Laws.EncodesItsRow.jpV0 _
  | rnd => exact Laws.EncodesItsRow.rnd _ _
  | drw => exact Laws.EncodesItsRow.drw _ _ _
  | skp => exact Laws.EncodesItsRow.skp _
  | sknp => exact Laws.EncodesItsRow.sknp _
  | ldVxDt => exact Laws.EncodesItsRow.ldVxDt _
  | ldKey => exact Laws.EncodesItsRow.ldKey _
  | ldDtVx => exact Laws.EncodesItsRow.ldDtVx _
  | ldStVx => exact Laws.EncodesItsRow.ldStVx _
  | addI => exact Laws.EncodesItsRow.addI _
  | ldFont => exact Laws.EncodesItsRow.ldFont _
  | bcd => exact Laws.EncodesItsRow.bcd _
  | storeRegs => exact Laws.EncodesItsRow.storeRegs _
  | loadRegs => exact Laws.EncodesItsRow.loadRegs _
  | nop => exact Laws.EncodesItsRow.nop _

/-- A word selects the row of what it decodes to, or no row at all when it decodes to the default row. -/
theorem selects_row_decodeWord (w : Word) :
    (∃ r ∈ opcodeRows, r.number = (decodeWord w).row ∧ w &&& r.mask = r.pattern) ∨
    ((decodeWord w).row = 35 ∧ ∀ r ∈ opcodeRows, w &&& r.mask ≠ r.pattern) := by
  have h := encodesItsRow (decodeWord w) (wf_decodeWord w)
  simpa only [encode_decodeWord, OpcodeRow.selects, beq_iff_eq, beq_eq_false_iff_ne] using h

/-- Two different rows differ in a bit that both masks test. -/
theorem opcodeRows_disjoint : ∀ p ∈ opcodeRows, ∀ q ∈ opcodeRows, p.number ≠ q.number →
    p.pattern &&& q.mask ≠ q.pattern &&& p.mask := by decide

theorem opcodeRows_number : ∀ p ∈ opcodeRows, p.number ≤ 34 ∧ ∀ q ∈ opcodeRows, p.number = q.number → p = q := by decide

/-- No word selects two rows: under both masks it would be both patterns. -/
theorem row_eq_of_selects {w : Word} {p q : OpcodeRow} (hp : p ∈ opcodeRows) (hq : q ∈ opcodeRows)
    (hwp : w &&& p.mask = p.pattern) (hwq : w &&& q.mask = q.pattern) : p.number = q.number := by
  by_contra hne
  apply opcodeRows_disjoint p hp q hq hne
  rw [← hwp, ← hwq, BitVec.and_assoc, BitVec.and_assoc, BitVec.and_comm p.mask]

/-- Settles O3: a word selects the row of what it decodes to, and no other row selects it. -/
theorem wordSelectsItsTableRow : Obligations.WordSelectsItsTableRow := by
  unfold Obligations.WordSelectsItsTableRow
  intro w
  rcases selects_row_decodeWord w with ⟨r, hr, hnum, hsel⟩ | ⟨hrow, hnone⟩
  · rw [← hnum]
    refine ⟨fun q hq => ⟨fun hw => row_eq_of_selects hr hq hsel hw, fun hrq => ?_⟩, fun h35 => ?_, fun hnone => ?_⟩
    · rw [← (opcodeRows_number r hr).2 q hq hrq]
      exact hsel
    · have := (opcodeRows_number r hr).1
      omega
    · exact absurd hsel (hnone r hr)
  · rw [hrow]
    refine ⟨fun q hq => ⟨fun hw => absurd hw (hnone q hq), fun hq35 => ?_⟩, fun _ => hnone, fun _ => rfl⟩
    have := (opcodeRows_number q hq).1
    omega

/-! ### The no-op space and its size (R91) -/

theorem decodeWord_eq_nop {w v : Word} (h : decodeWord w = .nop v) : v = w := by
  rw [← encode_decodeWord w, h, encode]

theorem decodeWord_eq_nop_iff (w : Word) : decodeWord w = .nop w ↔ inNoOpSpace w = true := by
  refine ⟨fun h => ?_, decodeWord_of_inNoOpSpace⟩
  have hwf := wf_decodeWord w
  rwa [h] at hwf

theorem isUnknown_iff (i : Instr) : isUnknown i = true ↔ ∃ v, i = .nop v := by
  cases i <;> simp [isUnknown]

theorem exists_decodeWord_eq_nop (w : Word) : (∃ v, decodeWord w = .nop v) ↔ inNoOpSpace w = true := by
  rw [← decodeWord_eq_nop_iff]
  exact ⟨fun ⟨v, hv⟩ => decodeWord_eq_nop hv ▸ hv, fun h => ⟨w, h⟩⟩

theorem isUnknown_decodeWord (w : Word) : isUnknown (decodeWord w) = inNoOpSpace w := by
  rw [Bool.eq_iff_iff, isUnknown_iff, exists_decodeWord_eq_nop]

/-- A predicate of period `m` holds `q` times as often on `q` periods as on one. -/
theorem count_mul_of_periodic {p : ℕ → Prop} [DecidablePred p] {m : ℕ} (hp : ∀ k, p (m + k) ↔ p k) (q : ℕ) :
    Nat.count p (m * q) = q * Nat.count p m := by
  induction q with
  | zero => simp
  | succ q ih =>
    have hshift : Nat.count (fun k => p (m + k)) (m * q) = Nat.count p (m * q) := by simp only [hp]
    rw [Nat.mul_succ, Nat.add_comm, Nat.count_add, hshift, ih]
    ring

/-- The numbers below `m * q` whose remainder by `m` is none of a list's: `m` less the list's length, `q` times. -/
theorem count_mod_notMem {m : ℕ} {L : List ℕ} (hnd : L.Nodup) (hlt : ∀ a ∈ L, a < m) (q : ℕ) :
    Nat.count (fun k => k % m ∉ L) (m * q) = q * (m - L.length) := by
  have hperiod : Nat.count (fun k => k % m ∉ L) m = m - L.length := by
    have hset : {k ∈ Finset.range m | k % m ∉ L} = Finset.range m \ L.toFinset := by
      ext k
      simp only [Finset.mem_filter, Finset.mem_range, Finset.mem_sdiff, List.mem_toFinset]
      exact and_congr_right fun hk => by rw [Nat.mod_eq_of_lt hk]
    have hsub : L.toFinset ⊆ Finset.range m := fun a ha => by simpa using hlt a (by simpa using ha)
    rw [Nat.count_eq_card_filter_range, hset, Finset.card_sdiff_of_subset hsub, Finset.card_range,
      List.toFinset_card_of_nodup hnd]
  rw [count_mul_of_periodic (fun k => by rw [Nat.add_mod_left]), hperiod]

/-! The part of the no-op space in each class, as the selectors that no instruction of the class has. -/

theorem inNoOpSpace_class0 {w : Word} (hc : classOf w = 0x0) : inNoOpSpace w = true ↔ w.toNat % 4096 ∉ [0xE0, 0xEE] := by
  have hw : w.toNat % 4096 = w.toNat := by
    have h0 : (classOf w).toNat = 0 := by rw [hc]; rfl
    rw [classOf_toNat] at h0
    omega
  simp [inNoOpSpace_iff, hc, ← BitVec.toNat_inj, hw]

theorem inNoOpSpace_class8 {w : Word} (hc : classOf w = 0x8) :
    inNoOpSpace w = true ↔ w.toNat % 16 ∉ [0x0, 0x1, 0x2, 0x3, 0x4, 0x5, 0x6, 0x7, 0xE] := by
  have hsel : ∀ n : Nibble, n ∈ ([0x8, 0x9, 0xA, 0xB, 0xC, 0xD, 0xF] : List Nibble) ↔
      n.toNat ∉ [0x0, 0x1, 0x2, 0x3, 0x4, 0x5, 0x6, 0x7, 0xE] := by decide
  rw [inNoOpSpace_iff, hc, hsel, fieldN_toNat]
  simp

theorem inNoOpSpace_classE {w : Word} (hc : classOf w = 0xE) : inNoOpSpace w = true ↔ w.toNat % 256 ∉ [0x9E, 0xA1] := by
  rw [← fieldKK_toNat]
  simp [inNoOpSpace_iff, hc, ← BitVec.toNat_inj]

theorem inNoOpSpace_classF {w : Word} (hc : classOf w = 0xF) :
    inNoOpSpace w = true ↔ w.toNat % 256 ∉ [0x07, 0x0A, 0x15, 0x18, 0x1E, 0x29, 0x33, 0x55, 0x65] := by
  rw [← fieldKK_toNat]
  simp [inNoOpSpace_iff, hc, ← BitVec.toNat_inj]

/-- The size of a class's part of the no-op space, from the list of the selectors that its instructions have. -/
theorem countP_isUnknown {c m q : ℕ} {L : List ℕ} (hc : c < 16) (hmq : m * q = 4096) (hnd : L.Nodup) (hlt : ∀ a ∈ L, a < m)
    (h : ∀ {w : Word}, classOf w = BitVec.ofNat 4 c → (inNoOpSpace w = true ↔ w.toNat % m ∉ L)) :
    (List.range 4096).countP (fun k => isUnknown (decodeWord (BitVec.ofNat 16 (c * 4096 + k)))) = q * (m - L.length) := by
  rw [← count_mod_notMem hnd hlt, hmq]
  refine List.countP_congr fun k hk => ?_
  have hk4096 : k < 4096 := List.mem_range.mp hk
  have hword : (BitVec.ofNat 16 (c * 4096 + k)).toNat = m * (c * q) + k := by
    rw [BitVec.toNat_ofNat, ← Nat.mul_left_comm, hmq]
    omega
  have hclass : classOf (BitVec.ofNat 16 (c * 4096 + k)) = BitVec.ofNat 4 c := by
    apply BitVec.eq_of_toNat_eq
    rw [classOf_toNat, BitVec.toNat_ofNat, BitVec.toNat_ofNat]
    omega
  rw [isUnknown_decodeWord, h hclass, hword, Nat.mul_add_mod, decide_eq_true_eq]

/-- Settles O4: the no-op space is what the decoder answers the no-op for; a class's part of it is periodic in the selector,
so that its size is counted on one period. -/
theorem noOpSpaceIsExact : Obligations.NoOpSpaceIsExact := by
  unfold Obligations.NoOpSpaceIsExact
  refine ⟨fun w => (exists_decodeWord_eq_nop w).trans (inNoOpSpace_iff w), fun w v => decodeWord_eq_nop, ?_, ?_, ?_, ?_⟩
  · exact countP_isUnknown (c := 0x0) (m := 4096) (q := 1) (by decide) rfl (by decide) (by decide) inNoOpSpace_class0
  · exact countP_isUnknown (c := 0x8) (m := 16) (q := 256) (by decide) rfl (by decide) (by decide) inNoOpSpace_class8
  · exact countP_isUnknown (c := 0xE) (m := 256) (q := 16) (by decide) rfl (by decide) (by decide) inNoOpSpace_classE
  · exact countP_isUnknown (c := 0xF) (m := 256) (q := 16) (by decide) rfl (by decide) (by decide) inNoOpSpace_classF

end Sys2Proof

namespace Sys2Proof.Machine

/-! ### The invariant: one lemma per update of a step or a request (R6, R38, R44 to R46) -/

theorem afterFetch_inv {s : State} (w : Word) (h : s.Inv) (hs : s.status = .running) : (s.afterFetch w).Inv := by
  obtain ⟨hcfg, hmem, hfb, ⟨hrun, -⟩, -⟩ := h
  exact ⟨hcfg, hmem, hfb, ⟨hrun, fun hf => by simp [hs] at hf⟩, fun hst => by simp at hst⟩

theorem fetchFault_inv {s : State} (e : Raise) (h : s.Inv) : (s.fetchFault e).Inv := by
  obtain ⟨hcfg, hmem, hfb, -, -⟩ := h
  exact ⟨hcfg, hmem, hfb, ⟨fun hr => by simp at hr, fun _ => by simp⟩, fun hst => by simp at hst⟩

/-- A raise in a block that has started: the record is written whole (R232). -/
theorem abort_inv {s : State} (e : Raise) (h : s.Inv) (hst : s.started = true) : (s.abort e).Inv := by
  obtain ⟨hcfg, hmem, hfb, -, -⟩ := h
  exact ⟨hcfg, hmem, hfb, ⟨fun hr => by simp at hr, fun _ => by simp [hst]⟩, fun hn => by simp [hst] at hn⟩

/-- A completed handler leaves STATUS, the record and the parameters alone, and memory and the framebuffer in form. -/
theorem Handled.inv {s t : State} (h : Handled s t) (hs : s.Inv) (hrun : s.status = .running) (hst : s.started = true) :
    t.Inv := by
  obtain ⟨hcfg, hmem, hfb, ⟨hrec, -⟩, -⟩ := hs
  have hmem' := h.canonical hmem
  have hfb' := h.size hfb
  rw [h.eq]
  exact ⟨hcfg, hmem', hfb', ⟨fun _ => hrec hrun, fun hf => by simp [hrun] at hf⟩, fun hn => by simp [hst] at hn⟩

theorem complete_inv {s : State} (i : Instr) (h : s.Inv) (hrun : s.status = .running) (hst : s.started = true) :
    (s.complete i).Inv := by
  obtain ⟨hcfg, hmem, hfb, ⟨hrec, -⟩, -⟩ := h
  exact ⟨hcfg, hmem, hfb, ⟨fun _ => hrec hrun, fun hf => by simp [hrun] at hf⟩, fun hn => by simp [hst] at hn⟩

theorem nextInput_inv {s : State} (h : s.Inv) (hst : s.started = true) : s.nextInput.Inv := by
  obtain ⟨hcfg, hmem, hfb, hrec, -⟩ := h
  exact ⟨hcfg, hmem, hfb, hrec, fun hn => by simp [hst] at hn⟩

theorem Handled.started {s t : State} (h : Handled s t) : t.started = s.started := by rw [h.eq]

/-- A handler that starts in a running, started block: it completes, or its raise is taken; the invariant holds either way. -/
theorem exec_inv {i : Instr} {s t : State} (h : exec i s = .next t) (hs : s.Inv) (hrun : s.status = .running)
    (hst : s.started = true) : t.Inv ∧ t.started = true := by
  rcases exec_cases h with ⟨e, rfl⟩ | hh
  · exact ⟨abort_inv e hs hst, hst⟩
  · exact ⟨hh.inv hs hrun hst, hh.started.trans hst⟩

theorem finish_inv {s : State} (i : Instr) (h : s.Inv) (hst : s.started = true) : (s.finish i).Inv := by
  cases hs : s.status with
  | running =>
    rw [finish_running i hs]
    exact nextInput_inv (complete_inv i h hs hst) hst
  | faulted =>
    rw [finish_faulted i hs]
    exact nextInput_inv h hst

/-- Settles O16: the case split on what a step can do, one lemma of the invariant per update. -/
theorem stepKeepsInvariant : Obligations.StepKeepsInvariant := by
  unfold Obligations.StepKeepsInvariant
  intro s t hs h
  rcases step_cases h with ⟨-, rfl⟩ | ⟨-, e, -, rfl⟩ | ⟨hrun, w, u, -, hu, rfl⟩
  · exact hs
  · exact nextInput_inv (fetchFault_inv e hs) rfl
  · obtain ⟨hinv, hst⟩ := exec_inv hu (afterFetch_inv w hs hrun) hrun rfl
    exact finish_inv _ hinv hst

theorem resetWith_inv {c : Config} (h : c.wf) : (State.resetWith c).Inv :=
  ⟨h, nil_wf c, List.length_replicate, ⟨fun _ => ⟨rfl, rfl, rfl⟩, fun hf => nomatch hf⟩, fun _ => rfl⟩

/-- Settles O17: reset lists no byte, clears FB_H times FB_W pixels and leaves an empty record. -/
theorem resetMeetsInvariant : Obligations.ResetMeetsInvariant := by
  unfold Obligations.ResetMeetsInvariant
  refine ⟨resetWith_inv (by decide), fun c s h => ?_⟩
  unfold State.construct at h
  split at h
  case isTrue hwf => cases h; exact resetWith_inv hwf
  case isFalse => cases h

theorem resetRequest_inv {s : State} (h : s.cfg.wf) : s.resetRequest.Inv :=
  ⟨h, nil_wf s.cfg, List.length_replicate, ⟨fun _ => ⟨rfl, rfl, rfl⟩, fun hf => nomatch hf⟩, fun _ => rfl⟩

/-- Storing bytes inside memory keeps the invariant, started or not: what freshness says of a block excepts memory (R265). -/
theorem setBytes_inv {s : State} {a : Nat} {bs : List Byte} (h : s.Inv) (ha : a + bs.length ≤ s.cfg.memSize) :
    (s.setBytes a bs).Inv := by
  obtain ⟨hcfg, hmem, hfb, hrec, hfresh⟩ := h
  have hmem' := setBytes_wf bs hmem ha
  rw [setBytes_eq]
  exact ⟨hcfg, hmem', hfb, hrec, fun hn =>
    congrArg (fun r : State => { r with mem := (s.setBytes a bs).mem }) (hfresh hn)⟩

/-- Settles O18: RESET gives the reset state, and the two loaders store inside memory or do nothing. -/
theorem requestsKeepInvariant : Obligations.RequestsKeepInvariant := by
  unfold Obligations.RequestsKeepInvariant
  intro s hs
  have ⟨hmem, hentry, _⟩ := hs.1
  refine ⟨resetRequest_inv hs.1, fun addr data we => ?_, fun p => ?_⟩
  · unfold State.loaderWrite
    split
    case isTrue hc =>
      obtain ⟨-, -, -, haddr⟩ := hc
      exact setBytes_inv (bs := [data]) hs haddr
    case isFalse => exact hs
  · unfold State.load
    split_ifs with hc hbig
    · exact hs
    · exact hs
    · exact setBytes_inv hs (by omega)

/-! ### The step around the handler (R100 to R102, R232) -/

theorem step_of_faulted {s : State} (hs : s.status = .faulted) : step s = .next s := by
  simp only [step, hs]

theorem step_of_fetch_error {s : State} {e : Raise} (hs : s.status = .running) (hf : s.fetch = .error e) :
    step s = .next (s.fetchFault e).nextInput := by
  simp only [step, hs, hf]

/-- Each of the three cases of a step answers a state (R107). -/
theorem step_next (s : State) : ∃ t, step s = .next t := by
  cases hs : s.status with
  | faulted => exact ⟨s, step_of_faulted hs⟩
  | running =>
    cases hf : s.fetch with
    | error e => exact ⟨_, step_of_fetch_error hs hf⟩
    | ok w =>
      obtain ⟨u, hu⟩ := exec_next (decodeWord w) (s.afterFetch w)
      exact ⟨_, step_of_exec hs hf hu⟩

/-- Settles O15: no case of a step answers the host's fault or refusal. -/
theorem everyStepAnswersNext : Obligations.EveryStepAnswersNext := by
  unfold Obligations.EveryStepAnswersNext
  exact step_next

/-- Settles O8: the fetch answers the word in memory, and the end of a step is read off the handler's STATUS. -/
theorem stepRunsTheDecodedInstruction : Obligations.StepRunsTheDecodedInstruction := by
  unfold Obligations.StepRunsTheDecodedInstruction
  intro s u w hs hpc hw hu
  have hfetch : s.fetch = .ok w := (fetch_ok s hpc).trans (congrArg Except.ok hw.symm)
  have hstep := step_of_exec hs hfetch hu
  refine ⟨fun hrun => ?_, fun hfault => ?_⟩
  · rw [hstep, finish_running _ hrun]
    rfl
  · rw [hstep, finish_faulted _ hfault]
    rfl

/-- Settles O10: the fetch names the first address out of range, and its raise is taken whole. -/
theorem fetchBeyondMemoryFaults : Obligations.FetchBeyondMemoryFaults := by
  unfold Obligations.FetchBeyondMemoryFaults
  intro s hs hpc
  exact ⟨_, step_of_fetch_error hs (fetch_oob s hpc), fetchFault_faults s _⟩

/-- A handler's raise, as the step that ran the handler shows it: the advance of `pc` is undone (R103, R232). -/
theorem abort_stepFaults (s : State) (w : Word) (e : Raise) :
    StepFaults e.cause e.info w s ((s.afterFetch w).abort e).nextInput := by
  have hpc : s.pc + 2 - 2 = s.pc := BitVec.add_sub_cancel ..
  refine ⟨rfl, rfl, hpc, rfl, rfl, rfl, rfl, rfl, fun j _ => rfl, fun p hp => ?_⟩
  cases p <;> simp [Part.same] at hp ⊢

/-- Settles O13: a step that ends faulted took the fetch's raise or its handler's; a completed handler leaves STATUS running. -/
theorem stepFaultIsPrecise : Obligations.StepFaultIsPrecise := by
  unfold Obligations.StepFaultIsPrecise
  intro s t hs h ht
  rcases step_cases h with ⟨hf, -⟩ | ⟨-, e, hf, rfl⟩ | ⟨-, w, u, hf, hu, rfl⟩
  · rw [hs] at hf; cases hf
  · have hpc := fetch_error hf
    rw [if_neg (by omega)]
    exact ⟨e.cause, e.info, fetchFault_faults s e⟩
  · obtain ⟨hpc, hw⟩ := fetch_word hf
    rw [if_pos hpc]
    rw [finish_status] at ht
    rcases exec_cases hu with ⟨e, rfl⟩ | hh
    · rw [finish_faulted _ ht]
      exact ⟨e.cause, e.info, hw ▸ abort_stepFaults s w e⟩
    · rw [hh.status, afterFetch_status, hs] at ht
      cases ht

theorem loaderWrite_of_faulted {s : State} (hs : s.status = .faulted) (addr : Word) (data : Byte) (we : Bool) :
    s.loaderWrite addr data we = s :=
  if_neg fun ⟨_, _, hrun, _⟩ => by rw [hs] at hrun; cases hrun

theorem load_refused {s : State} (h : s.started = true ∨ s.status = .faulted) (p : List Byte) :
    s.load p = (.refusedStarted, s) := if_pos h

/-- Steps of a faulted block do not make it run again (R235). -/
theorem stepsFrom_of_faulted (n : Nat) {s : State} (hs : s.status = .faulted) : stepsFrom n s = .next s := by
  induction n with
  | zero => rfl
  | succ n ih => rw [stepsFrom, step_of_faulted hs]; exact ih

theorem SafeRun.running {n : Nat} {s : State} (h : SafeRun n s) : s.status = .running := by
  obtain ⟨t, ht, hrun⟩ := h
  cases hs : s.status with
  | running => rfl
  | faulted =>
    rw [stepsFrom_of_faulted n hs] at ht
    cases ht
    exact hs.symm.trans hrun

theorem safeRun_succ {n : Nat} {s t : State} (h : step s = .next t) : SafeRun (n + 1) s ↔ SafeRun n t := by
  simp only [SafeRun, stepsFrom, h]

/-- A safe run is safe all the way: induction over its length. -/
theorem SafeRun.mono {n m : Nat} (hmn : m ≤ n) {s : State} (h : SafeRun n s) : SafeRun m s := by
  induction m generalizing n s with
  | zero => exact ⟨s, rfl, h.running⟩
  | succ m ih =>
    obtain ⟨n, rfl⟩ : ∃ k, n = k + 1 := ⟨n - 1, by omega⟩
    obtain ⟨t, ht⟩ := step_next s
    rw [safeRun_succ ht] at h ⊢
    exact ih (by omega) h

/-- Settles O9: STEP and the loaders answer a faulted block as it was, and a run that ends running never met a faulted one. -/
theorem faultedBlockWaitsForReset : Obligations.FaultedBlockWaitsForReset := by
  unfold Obligations.FaultedBlockWaitsForReset
  refine ⟨fun s hs => ⟨step_of_faulted hs, loaderWrite_of_faulted hs, load_refused (.inr hs), ?_⟩, fun n m s hmn h => h.mono hmn⟩
  exact ⟨_, serve_reset s, rfl, rfl, rfl, rfl⟩

/-! ### What the step outputs say of the word (R47, R110) -/

theorem draws_iff (i : Instr) : draws i = true ↔ i = .cls ∨ ∃ x y n, i = .drw x y n := by
  cases i <;> simp [draws]

/-- The words that draw: the whole word of CLS, and class 0xD. -/
theorem draws_decodeWord (w : Word) : draws (decodeWord w) = true ↔ w = 0x00E0 ∨ classOf w = 0xD := by
  rw [draws_iff]
  constructor
  · rintro (h | ⟨x, y, n, h⟩) <;> rw [← encode_decodeWord w, h]
    · exact .inl rfl
    · exact .inr (classOf_wordXYN ..)
  · rintro (rfl | hc)
    · exact .inl (decodeWord_encode (i := .cls) rfl)
    · exact .inr ⟨_, _, _, by rw [decodeWord, hc]; rfl⟩

/-- Settles O12: the end of a completed step writes the outputs from the decoded instruction, and the handler leaves
DIAG_WORD as the fetch set it. -/
theorem stepOutputsReportTheStep : Obligations.StepOutputsReportTheStep := by
  unfold Obligations.StepOutputsReportTheStep
  intro s t _ h ht
  obtain ⟨u, hu, hrun, rfl⟩ := step_completed h ht
  have hout : Part.stepOutputs ∉ writtenParts (decodeWord s.wordAtPc) := by
    cases decodeWord s.wordAtPc <;> simp [writtenParts]
  obtain ⟨-, -, hdiag⟩ := (exec_frame hu hrun).2 .stepOutputs hout
  refine ⟨hdiag, draws_decodeWord s.wordAtPc, ?_⟩
  rw [nextInput_diagUnknown, complete_diagUnknown, isUnknown_decodeWord]

/-! ### Where a completed handler leaves `pc` (R26) -/

theorem skipIf_afterFetch_pc (s : State) (w : Word) (b : Bool) :
    ((s.afterFetch w).skipIf b).pc = if b = true then s.pc + 4 else s.pc + 2 := by
  rw [skipIf_pc, afterFetch_pc, BitVec.add_assoc]
  rfl

theorem afterFetch_pc_sub (s : State) (w : Word) : (s.afterFetch w).pc - 2 = s.pc := BitVec.add_sub_cancel ..

theorem pop_eq {s t : State} {a : Word} (h : s.pop = .ok (a, t)) : a = s.stack.toList.getD (s.sp.val - 1) 0 := by
  unfold State.pop at h
  split at h <;> cases h
  have hlt : s.sp.val - 1 < 16 := by omega
  simp [List.getD_eq_getElem?_getD, hlt]

theorem keyNumber_eq {s : State} {x : RegIdx} {k : Nat} (h : s.keyNumber x = .ok k) : k = (s.reg x).toNat := by
  unfold State.keyNumber at h
  split at h <;> cases h
  rfl

/-- No pressed key is found exactly when KEYS is 0 (R215). -/
theorem firstPressed_eq_none_iff (keys : BitVec 16) : firstPressed keys = none ↔ keys = 0 := by
  constructor
  · intro h
    simp only [firstPressed, keyNumbers, List.find?_eq_none, List.mem_range] at h
    exact BitVec.eq_of_getLsbD_eq fun k hk => by simpa using h k hk
  · rintro rfl
    exact firstPressed_none fun k _ => BitVec.getLsbD_zero

theorem zext8_add_zext12 (b : Byte) (nnn : Addr12) : zext8 b + zext12 nnn = BitVec.ofNat 16 (b.toNat + nnn.toNat) := by
  apply BitVec.eq_of_toNat_eq
  simp [zext8]

/-- The handler leaves `pc` where the summary of R26 says, under the keys it reads. -/
theorem exec_pcAfter {i : Instr} {s u : State} {w : Word} (h : exec i (s.afterFetch w) = .next u)
    (hu : u.status = .running) : u.pc = pcAfter s s.keys i := by
  cases i
  case ret =>
    cases hp : (s.afterFetch w).pop with
    | error e => cases (exec_ret_error hp).symm.trans h; cases hu
    | ok p => cases (exec_ret_ok hp).symm.trans h; exact pop_eq (s := s.afterFetch w) hp
  case call nnn =>
    cases hp : (s.afterFetch w).push (s.afterFetch w).pc with
    | error e => cases (exec_call_error nnn hp).symm.trans h; cases hu
    | ok t => cases (exec_call_ok nnn hp).symm.trans h; rfl
  case skp x =>
    cases hk : (s.afterFetch w).keyNumber x with
    | error e => cases (exec_skp_error hk).symm.trans h; cases hu
    | ok k =>
      cases (exec_skp_ok hk).symm.trans h
      cases keyNumber_eq hk
      exact skipIf_afterFetch_pc _ _ _
  case sknp x =>
    cases hk : (s.afterFetch w).keyNumber x with
    | error e => cases (exec_sknp_error hk).symm.trans h; cases hu
    | ok k =>
      cases (exec_sknp_ok hk).symm.trans h
      cases keyNumber_eq hk
      rw [skipIf_afterFetch_pc]
      simp [pcAfter]
  case ldKey x =>
    cases hk : firstPressed (s.afterFetch w).keys with
    | none =>
      cases (exec_ldKey_none x hk).symm.trans h
      have hzero : s.keys = 0 := (firstPressed_eq_none_iff _).mp hk
      rw [setPc_pc, afterFetch_pc_sub, pcAfter, if_pos hzero]
    | some k =>
      cases (exec_ldKey_some x hk).symm.trans h
      have hne : s.keys ≠ 0 := fun hz => by
        rw [afterFetch_keys, (firstPressed_eq_none_iff _).mpr hz] at hk
        cases hk
      rw [setReg_pc, afterFetch_pc, pcAfter, if_neg hne]
  case jp nnn => cases Host.Outcome.next.inj h; rfl
  case jpV0 nnn => cases Host.Outcome.next.inj h; exact zext8_add_zext12 _ _
  case seImm x kk | sneImm x kk | seReg x y n | sneReg x y n =>
    cases Host.Outcome.next.inj h
    rw [skipIf_afterFetch_pc]
    simp [pcAfter]
  all_goals exact (exec_frame h hu).2 .pc (by simp [writtenParts])

/-- Settles O25: the handler of a completed step reads the presented keys, and the end of the step leaves `pc` alone. -/
theorem pcAfterStep : Obligations.PcAfterStep := by
  unfold Obligations.PcAfterStep
  intro s t keys hkeys _ h ht
  obtain ⟨u, hu, hrun, rfl⟩ := step_completed h ht
  rw [presentsKeys_iff.mp hkeys, nextInput_pc, complete_pc]
  exact exec_pcAfter hu hrun

/-! ### What a completed handler writes (R21 to R43) -/

/-- A handler that stores completed only in range, and stored its bytes and no other (R62, R173, R174). -/
theorem exec_bcd_run {s t : State} {x : RegIdx} (h : exec (.bcd x) s = .next t) (ht : t.status = .running) :
    s.effAddr 2 < s.cfg.memSize ∧ t = s.setBytes (s.effAddr 0) (bcdDigits (s.reg x)) := by
  cases Host.Outcome.next.inj h
  exact writeBytes_run (List.cons_ne_nil _ _) (settle_run ht)

theorem exec_storeRegs_run {s t : State} {x : RegIdx} (h : exec (.storeRegs x) s = .next t) (ht : t.status = .running) :
    s.effAddr x.val < s.cfg.memSize ∧ t = s.setBytes (s.effAddr 0) (s.regsUpTo x) := by
  cases Host.Outcome.next.inj h
  have hlen := regsUpTo_length s x
  obtain ⟨hin, heq⟩ := writeBytes_run (List.ne_nil_of_length_pos (by omega)) (settle_run ht)
  rw [hlen] at hin
  exact ⟨hin, heq⟩

theorem byteAt_setBytes_outside (s : State) {a k : Nat} {bs : List Byte} (h : ¬ (a ≤ k ∧ k < a + bs.length)) :
    (s.setBytes a bs).byteAt k = s.byteAt k := by
  rw [byteAt_setBytes, if_neg h]

theorem byteAt_setBytes_inside (s : State) {a k : Nat} {bs : List Byte} (h : k < bs.length) :
    (s.setBytes a bs).byteAt (a + k) = bs.getD k 0 := by
  rw [byteAt_setBytes, if_pos ⟨by omega, by omega⟩, Nat.add_sub_cancel_left]

theorem byteAt_storeRegs (s : State) {x k : RegIdx} (hk : k ≤ x) :
    (s.setBytes (s.effAddr 0) (s.regsUpTo x)).byteAt (s.effAddr k.val) = s.reg k := by
  rw [← regsUpTo_getD s x k hk]
  exact byteAt_setBytes_inside s (by rw [regsUpTo_length]; exact Nat.lt_succ_of_le hk)

theorem byteAt_storeRegs_outside (s : State) {x : RegIdx} {a : Nat} (ha : ¬ (s.effAddr 0 ≤ a ∧ a ≤ s.effAddr x.val)) :
    (s.setBytes (s.effAddr 0) (s.regsUpTo x)).byteAt a = s.byteAt a := by
  apply byteAt_setBytes_outside
  rw [regsUpTo_length]
  simp only [State.effAddr] at ha ⊢
  omega

/-- Settles O26: the frame of every handler, and the exact range of the two that store. -/
theorem instructionsWriteOnlyTheirOwn : Obligations.InstructionsWriteOnlyTheirOwn := by
  unfold Obligations.InstructionsWriteOnlyTheirOwn
  intro i s t _ h ht
  refine ⟨exec_frame h ht, ?_, ?_⟩
  · rintro x rfl a ha
    rw [(exec_bcd_run h ht).2]
    exact byteAt_setBytes_outside s ha
  · rintro x rfl a ha
    rw [(exec_storeRegs_run h ht).2]
    exact byteAt_storeRegs_outside s ha

/-! ### The no-op (R108) -/

theorem exec_nop (w : Word) (s : State) : exec (.nop w) s = .next s := rfl

/-- Settles O56: the handler answers the state after the fetch, and the step's end adds the countdown and the outputs. -/
theorem noOpOnlyAdvances : Obligations.NoOpOnlyAdvances := by
  unfold Obligations.NoOpOnlyAdvances
  refine ⟨exec_nop, fun s hs hpc hw => ?_⟩
  have hnop : decodeWord s.wordAtPc = .nop s.wordAtPc := decodeWord_of_inNoOpSpace hw
  have hstep := step_of_completed (u := s.afterFetch s.wordAtPc) hs hpc (by rw [hnop, exec_nop]) hs
  rw [hnop] at hstep
  refine ⟨_, hstep, hs, rfl, rfl, countDown_toNat s.dt, countDown_toNat s.st, rfl, rfl, rfl, fun j _ => rfl, fun p hp => ?_⟩
  cases p <;> simp [Part.same] at hp ⊢

/-! ### States that differ in what few instructions read: ST, and the model's inputs (R36, R53, R54) -/

/-- A change of ST and of the model's inputs. -/
structure Relabel where
  st : Byte → Byte
  inputs : List StepInput → List StepInput
  tick : Nat → Nat

/-- The state with ST and the model's inputs changed, and all else as it was. -/
def State.relabel (s : State) (f : Relabel) : State :=
  { s with st := f.st s.st, inputs := f.inputs s.inputs, tick := f.tick s.tick }

section RelabelledOperations

variable (f : Relabel) (s : State)

theorem relabel_settle (r : Except Raise State) :
    (s.relabel f).settle (r.map (·.relabel f)) = (s.settle r).relabel f := by
  cases r <;> rfl

theorem relabel_skipIf (b : Bool) : (s.relabel f).skipIf b = (s.skipIf b).relabel f := by
  cases b <;> rfl

theorem relabel_push (a : Word) : (s.relabel f).push a = (s.push a).map (·.relabel f) := by
  unfold State.push
  split
  case isTrue h => rw [dif_pos (show s.sp.val < 16 from h)]; rfl
  case isFalse h => rw [dif_neg (show ¬ s.sp.val < 16 from h)]; rfl

theorem relabel_pop : (s.relabel f).pop = s.pop.map (fun p => (p.1, p.2.relabel f)) := by
  unfold State.pop
  split
  case isTrue h => rw [dif_pos (show 0 < s.sp.val from h)]; rfl
  case isFalse h => rw [dif_neg (show ¬ 0 < s.sp.val from h)]; rfl

theorem relabel_readBytes (a n : Nat) : (s.relabel f).readBytes a n = s.readBytes a n := by
  induction n generalizing a with
  | zero => rfl
  | succ n ih =>
    have hread : (s.relabel f).memRead .readOob a = s.memRead .readOob a := rfl
    simp only [State.readBytes, ih, hread]

theorem relabel_memWrite (a : Nat) (b : Byte) : (s.relabel f).memWrite a b = (s.memWrite a b).map (·.relabel f) := by
  unfold State.memWrite
  split
  case isTrue h => rw [if_pos (show s.cfg.memSize ≤ a from h)]; rfl
  case isFalse h =>
    rw [if_neg (show ¬ s.cfg.memSize ≤ a from h)]
    split
    case isTrue h' => rw [if_pos (show s.cfg.reservedWrite = .fault ∧ _ from h')]; rfl
    case isFalse h' => rw [if_neg (show ¬ (s.cfg.reservedWrite = .fault ∧ _) from h')]; rfl

theorem relabel_writeBytes (a : Nat) (bs : List Byte) :
    (s.relabel f).writeBytes a bs = (s.writeBytes a bs).map (·.relabel f) := by
  induction bs generalizing s a with
  | nil => rfl
  | cons b bs ih =>
    simp only [State.writeBytes, relabel_memWrite]
    cases s.memWrite a b with
    | error e => rfl
    | ok t => exact ih t (a + 1)

theorem relabel_drawBit (r c : Nat) : drawBit (s.relabel f) r c = (drawBit s r c).map (·.relabel f) := by
  have hplot : ∀ b : Bool, (if b then (s.relabel f).setReg vf 1 else s.relabel f) =
      (if b then s.setReg vf 1 else s).relabel f := fun b => by cases b <;> rfl
  unfold drawBit
  split
  case isTrue h =>
    rw [if_pos (show s.cfg.fbH ≤ r ∨ s.cfg.fbW ≤ c from h)]
    have hedge : (s.relabel f).cfg = s.cfg := rfl
    rw [hedge]
    cases s.cfg.spriteEdge <;> rfl
  case isFalse h =>
    rw [if_neg (show ¬ (s.cfg.fbH ≤ r ∨ s.cfg.fbW ≤ c) from h), hplot]
    rfl

theorem relabel_drawByte (r xs : Nat) (b : Byte) (cols : List Nat) :
    drawByte r xs b cols (s.relabel f) = (drawByte r xs b cols s).map (·.relabel f) := by
  induction cols generalizing s with
  | nil => rfl
  | cons col cols ih =>
    unfold drawByte
    split
    · rw [relabel_drawBit]
      cases drawBit s r (xs + col) with
      | error e => rfl
      | ok t => exact ih t
    · exact ih s

theorem relabel_drawRows (ys xs : Nat) (rows : List Nat) :
    drawRows ys xs rows (s.relabel f) = (drawRows ys xs rows s).map (·.relabel f) := by
  induction rows generalizing s with
  | nil => rfl
  | cons row rows ih =>
    have hread : (s.relabel f).memRead .readOob ((s.relabel f).effAddr row) = s.memRead .readOob (s.effAddr row) := rfl
    unfold drawRows
    rw [hread]
    cases s.memRead .readOob (s.effAddr row) with
    | error e => rfl
    | ok b =>
      simp only [relabel_drawByte]
      cases drawByte (ys + row) xs b spriteCols s with
      | error e => rfl
      | ok t => exact ih t

end RelabelledOperations

/-- The instructions that read KEYS or RND (R53, R54). -/
def readsInputs : Instr → Prop
  | .skp _ | .sknp _ | .ldKey _ | .rnd _ _ => True
  | _ => False

/-- A handler does the same whatever ST is, and whatever the inputs are unless it reads them; Fx18 alone writes ST. -/
theorem exec_relabel {i : Instr} {f : Relabel} (s t : State) (hst : f.st = id ∨ ∀ x, i ≠ .ldStVx x)
    (hin : ¬ readsInputs i ∨ f.inputs = id ∧ f.tick = id) (h : exec i s = .next t) :
    exec i (s.relabel f) = .next (t.relabel f) := by
  have hreads : readsInputs i → (s.relabel f).keys = s.keys ∧ (s.relabel f).rnd = s.rnd := fun hi => by
    obtain ⟨hl, hn⟩ := hin.resolve_left (not_not_intro hi)
    constructor <;> simp only [State.keys, State.rnd, State.relabel, hl, hn, id]
  cases i <;> cases Host.Outcome.next.inj h
  case ret =>
    simp only [exec, execRet, ← relabel_settle, relabel_pop]
    cases s.pop <;> rfl
  case call nnn =>
    have hpc : (s.relabel f).pc = s.pc := rfl
    simp only [exec, execCall, ← relabel_settle, relabel_push, hpc]
    cases s.push s.pc <;> rfl
  case skp x =>
    have hk : (s.relabel f).keyNumber x = s.keyNumber x := rfl
    simp only [exec, execSkp, ← relabel_settle, hk, (hreads trivial).1, relabel_skipIf]
    cases s.keyNumber x <;> rfl
  case sknp x =>
    have hk : (s.relabel f).keyNumber x = s.keyNumber x := rfl
    simp only [exec, execSknp, ← relabel_settle, hk, (hreads trivial).1, relabel_skipIf]
    cases s.keyNumber x <;> rfl
  case ldKey x =>
    simp only [exec, execLdKey, (hreads trivial).1]
    cases firstPressed s.keys <;> rfl
  case rnd x kk =>
    simp only [exec, execRnd, (hreads trivial).2]
    rfl
  case drw x y n => simp only [exec, execDrw, ← relabel_settle, ← relabel_drawRows]; rfl
  case bcd x => simp only [exec, execBcd, ← relabel_settle, ← relabel_writeBytes]; rfl
  case storeRegs x => simp only [exec, execStoreRegs, ← relabel_settle, ← relabel_writeBytes]; rfl
  case loadRegs x =>
    simp only [exec, execLoadRegs, ← relabel_settle, relabel_readBytes]
    have he : (s.relabel f).effAddr 0 = s.effAddr 0 := rfl
    rw [he]
    cases s.readBytes (s.effAddr 0) (x.val + 1) <;> rfl
  case seImm | sneImm | seReg | sneReg => exact congrArg Host.Outcome.next (relabel_skipIf f s _)
  case ldStVx x =>
    have hid : f.st = id := hst.resolve_right fun hne => hne x rfl
    simp only [exec, execLdStVx, State.setSt, State.relabel, hid, id]
    rfl
  all_goals rfl

/-- Settles O27: the inputs are relabelled and ST is not. -/
theorem inputsReachOnlyTheirInstructions : Obligations.InputsReachOnlyTheirInstructions := by
  unfold Obligations.InputsReachOnlyTheirInstructions
  intro i s t l n hi h
  have hin : ¬ readsInputs i := fun hr => by
    cases i with
    | skp x => obtain ⟨hne, -⟩ := hi x 0; exact hne rfl
    | sknp x => obtain ⟨-, hne, -⟩ := hi x 0; exact hne rfl
    | ldKey x => obtain ⟨-, -, hne, -⟩ := hi x 0; exact hne rfl
    | rnd x kk => obtain ⟨-, -, -, hne⟩ := hi x kk; exact hne rfl
    | _ => exact hr
  exact exec_relabel (f := ⟨id, fun _ => l, fun _ => n⟩) s t (.inl rfl) (.inl hin) h

/-- The end of a step counts ST down and reads it nowhere else. -/
theorem finish_setSt (u : State) (b : Byte) (i : Instr) : ∃ b', (u.setSt b).finish i = (u.finish i).setSt b' := by
  cases hu : u.status with
  | running =>
    refine ⟨countDown b, ?_⟩
    rw [finish_running i hu, finish_running i (show (u.setSt b).status = .running from hu)]
    rfl
  | faulted =>
    refine ⟨b, ?_⟩
    rw [finish_faulted i hu, finish_faulted i (show (u.setSt b).status = .faulted from hu)]
    rfl

/-- A handler leaves states that differ in ST alone so; Fx18 leaves them equal. -/
theorem exec_setSt {i : Instr} {s t : State} (b : Byte) (h : exec i s = .next t) :
    ∃ b', exec i (s.setSt b) = .next (t.setSt b') := by
  by_cases hi : ∃ x, i = .ldStVx x
  · obtain ⟨x, rfl⟩ := hi
    cases Host.Outcome.next.inj h
    exact ⟨s.reg x, rfl⟩
  · exact ⟨b, exec_relabel (f := ⟨fun _ => b, id, id⟩) s t (.inr fun x hx => hi ⟨x, hx⟩) (.inr ⟨rfl, rfl⟩) h⟩

/-- Settles O28: the three cases of a step, the fetch reading no timer. -/
theorem soundTimerAffectsNothing : Obligations.SoundTimerAffectsNothing := by
  unfold Obligations.SoundTimerAffectsNothing
  intro s t b h
  have hfetch : (s.setSt b).fetch = s.fetch := rfl
  rcases step_cases h with ⟨hs, rfl⟩ | ⟨hs, e, hf, rfl⟩ | ⟨hs, w, u, hf, hu, rfl⟩
  · exact ⟨b, step_of_faulted hs⟩
  · exact ⟨b, step_of_fetch_error hs (hfetch.trans hf)⟩
  · obtain ⟨b', hu'⟩ := exec_setSt b hu
    obtain ⟨b'', hfin⟩ := finish_setSt u b' (decodeWord w)
    refine ⟨b'', ?_⟩
    rw [← State.setSt, step_of_exec (s := s.setSt b) hs (hfetch.trans hf) hu', hfin]
    rfl

/-! ### What a handler that faults was (R231, R233) -/

section Faulted

variable {s t : State} (hs : s.status = .running) (ht : t.status = .faulted)
include hs ht

theorem exec_ret_faulted (h : exec .ret s = .next t) : s.sp.val = 0 ∧ Faults .stackUnderflow 0 s t := by
  rcases Nat.eq_zero_or_pos s.sp.val with hzero | hpos
  · cases (exec_ret_error (pop_empty s hzero)).symm.trans h
    exact ⟨hzero, abort_faults s _⟩
  · cases (exec_ret_ok (pop_ok s hpos)).symm.trans h
    cases hs.symm.trans ht

theorem exec_call_faulted {nnn : Addr12} (h : exec (.call nnn) s = .next t) :
    s.sp.val = 16 ∧ Faults .stackOverflow 16 s t := by
  by_cases hlt : s.sp.val < 16
  · cases (exec_call_ok nnn (push_ok s s.pc hlt)).symm.trans h
    cases hs.symm.trans ht
  · have hfull : s.sp.val = 16 := by omega
    cases (exec_call_error nnn (push_full s s.pc hfull)).symm.trans h
    exact ⟨hfull, abort_faults s _⟩

theorem exec_key_faulted {i : Instr} {x : RegIdx} (hi : i = .skp x ∨ i = .sknp x) (h : exec i s = .next t) :
    16 ≤ (s.reg x).toNat ∧ Faults .keyOob (s.reg x).toNat s t := by
  have hskip : ∀ b, (s.skipIf b).status = .running := fun b => by cases b <;> exact hs
  rcases Nat.lt_or_ge (s.reg x).toNat 16 with hlt | hge
  · rcases hi with rfl | rfl
    · cases (exec_skp_ok (keyNumber_ok hlt)).symm.trans h
      cases (hskip _).symm.trans ht
    · cases (exec_sknp_ok (keyNumber_ok hlt)).symm.trans h
      cases (hskip _).symm.trans ht
  · rcases hi with rfl | rfl
    · cases (exec_skp_error (keyNumber_error hge)).symm.trans h
      exact ⟨hge, abort_faults s _⟩
    · cases (exec_sknp_error (keyNumber_error hge)).symm.trans h
      exact ⟨hge, abort_faults s _⟩

theorem exec_loadRegs_faulted {x : RegIdx} (h : exec (.loadRegs x) s = .next t) :
    s.cfg.memSize ≤ s.index.toNat + x.val ∧ Faults .readOob (max s.index.toNat s.cfg.memSize) s t := by
  by_cases hin : s.effAddr 0 + (x.val + 1) ≤ s.cfg.memSize
  · cases (exec_loadRegs_ok (readBytes_ok s _ _ hin)).symm.trans h
    cases hs.symm.trans ht
  · cases (exec_loadRegs_error (readBytes_oob s _ _ (Nat.lt_of_not_le hin) x.val.succ_pos)).symm.trans h
    simp only [State.effAddr] at hin
    exact ⟨by omega, abort_faults s _⟩

/-- A store that faults wrote nothing: out of range or into a protected reserved region (R62). -/
theorem writeBytes_faulted {bs : List Byte} (h : s.settle (s.writeBytes (s.effAddr 0) bs) = t) :
    (s.cfg.memSize < s.index.toNat + bs.length ∧ Faults .writeOob (max s.index.toNat s.cfg.memSize) s t) ∨
    (s.cfg.reservedWrite = .fault ∧ s.index.toNat ≤ 0x1FF ∧ Faults .reservedWrite s.index.toNat s t) := by
  subst h
  rcases settle_cases s (s.writeBytes (s.effAddr 0) bs) with ⟨e, he, hab⟩ | ⟨u, hu, hset⟩
  · rw [hab]
    rcases writeBytes_error _ _ _ _ he with ⟨hoob, rfl⟩ | ⟨hprot, hres, rfl⟩
    · exact .inl ⟨hoob, abort_faults s _⟩
    · exact .inr ⟨hprot, hres, abort_faults s _⟩
  · rw [hset, (writeBytes_handled _ _ _ _ hu).status, hs] at ht
    cases ht

/-- A draw that faults read a row beyond memory, or drew a set bit off the screen under SPRITE_EDGE = fault (R191, R193). -/
theorem exec_drw_faulted {x y : RegIdx} {n : Fin 16} (h : exec (.drw x y n) s = .next t) :
    (∃ row, row < n.val ∧ s.cfg.memSize ≤ s.index.toNat + row ∧ Faults .readOob (s.index.toNat + row) s t) ∨
    (∃ r c, s.cfg.spriteEdge = .fault ∧ s.spriteBit x y n.val r c = true ∧ ¬ s.onScreen r c ∧
      Faults .spriteEdge (r * 256 + c) s t) := by
  cases hd : drawRows (s.startRow y) (s.startCol x) (List.range n.val) (s.setReg vf 0) with
  | ok u =>
    cases (exec_drw_ok hd).symm.trans h
    rw [(drawRows_handled _ _ _ _ _ hd).status, setReg_status, hs] at ht
    cases ht
  | error e =>
    cases (exec_drw_error hd).symm.trans h
    rcases drawRows_error _ _ _ _ _ hd with ⟨row, hrow, hoob, rfl⟩ | ⟨row, hrow, col, hcol, hbit, hedge, hoff, rfl⟩
    · exact .inl ⟨row, List.mem_range.mp hrow, hoob, abort_faults s _⟩
    · refine .inr ⟨_, _, hedge, (mem_rowPoints_spriteBit s x y n.val _ _).mp ?_, hoff, abort_faults s _⟩
      exact List.mem_flatMap.mpr ⟨row, hrow, List.mem_map.mpr ⟨col, List.mem_filter.mpr ⟨hcol, hbit⟩, rfl⟩⟩

end Faulted

/-- The instructions that can raise (R231). -/
def canRaise : Instr → Prop
  | .ret | .call _ | .skp _ | .sknp _ | .drw _ _ _ | .loadRegs _ | .bcd _ | .storeRegs _ => True
  | _ => False

/-- Every other handler leaves STATUS as it was. -/
theorem exec_status {i : Instr} {s t : State} (hi : ¬ canRaise i) (h : exec i s = .next t) : t.status = s.status := by
  have hskip : ∀ b, (s.skipIf b).status = s.status := fun b => by cases b <;> rfl
  cases i <;> cases Host.Outcome.next.inj h
  case ret | call | skp | sknp | drw | loadRegs | bcd | storeRegs => exact absurd trivial hi
  case seImm | sneImm | seReg | sneReg => exact hskip _
  case ldKey => cases firstPressed s.keys <;> rfl
  all_goals rfl

/-- Settles O14: the instructions that can raise, one by one. -/
theorem onlyListedConditionsFault : Obligations.OnlyListedConditionsFault := by
  unfold Obligations.OnlyListedConditionsFault
  intro i s t hs h ht
  by_cases hi : canRaise i
  · cases i with
    | ret => exact .inl ⟨rfl, exec_ret_faulted hs ht h⟩
    | call nnn => exact .inr (.inl ⟨nnn, rfl, exec_call_faulted hs ht h⟩)
    | skp x => exact .inr (.inr (.inl ⟨x, .inl rfl, exec_key_faulted hs ht (.inl rfl) h⟩))
    | sknp x => exact .inr (.inr (.inl ⟨x, .inr rfl, exec_key_faulted hs ht (.inr rfl) h⟩))
    | drw x y n =>
      rcases exec_drw_faulted hs ht h with ⟨row, hrow⟩ | ⟨r, c, hrc⟩
      · exact .inr (.inr (.inr (.inl ⟨x, y, n, row, rfl, hrow⟩)))
      · exact .inr (.inr (.inr (.inr (.inl ⟨x, y, n, r, c, rfl, hrc⟩))))
    | loadRegs x => exact .inr (.inr (.inr (.inr (.inr (.inl ⟨x, rfl, exec_loadRegs_faulted hs ht h⟩)))))
    | bcd x =>
      refine .inr (.inr (.inr (.inr (.inr (.inr ⟨x, 3, .inl ⟨rfl, rfl⟩, ?_⟩)))))
      exact writeBytes_faulted hs ht (Host.Outcome.next.inj h)
    | storeRegs x =>
      refine .inr (.inr (.inr (.inr (.inr (.inr ⟨x, x.val + 1, .inr ⟨rfl, rfl⟩, ?_⟩)))))
      rw [← regsUpTo_length s x]
      exact writeBytes_faulted hs ht (Host.Outcome.next.inj h)
    | _ => exact absurd hi (not_false)
  · rw [exec_status hi h, hs] at ht
    cases ht

/-! ### The draw as its points (R191 to R195) -/

/-- The points `Dxyn` plots: the positions of its sprite's set bits, in drawing order (R191). -/
def State.drawPoints (s : State) (x y : RegIdx) (n : Nat) : List (Nat × Nat) :=
  rowPoints (s.setReg vf 0) (s.startRow y) (s.startCol x) (List.range n)

theorem mem_drawPoints (s : State) (x y : RegIdx) (n r c : Nat) :
    (r, c) ∈ s.drawPoints x y n ↔ s.spriteBit x y n r c = true := mem_rowPoints_spriteBit s x y n r c

theorem nodup_drawPoints (s : State) (x y : RegIdx) (n : Nat) : (s.drawPoints x y n).Nodup :=
  nodup_rowPoints _ _ _ _ List.nodup_range

theorem noEdgeFault_drawPoints {s : State} {x y : RegIdx} {n : Nat}
    (h : s.cfg.spriteEdge = .clip ∨ ∀ r c, s.spriteBit x y n r c = true → s.onScreen r c) :
    NoEdgeFault (s.setReg vf 0) (s.drawPoints x y n) :=
  h.imp_right fun hon _ hp => hon _ _ ((mem_drawPoints ..).mp hp)

/-- With its rows in memory and no bit that faults, a draw plots its points after VF is cleared (R191, R192). -/
theorem exec_drw_plot {s : State} {x y : RegIdx} {n : Fin 16} (hmem : ∀ row, row < n.val → s.effAddr row < s.cfg.memSize)
    (hedge : NoEdgeFault (s.setReg vf 0) (s.drawPoints x y n.val)) :
    exec (.drw x y n) s = .next ((s.drawPoints x y n.val).foldl plot (s.setReg vf 0)) :=
  exec_drw_ok (drawRows_plot _ _ _ _ (fun row hrow => hmem row (List.mem_range.mp hrow)) hedge)

theorem pixel_drw (s : State) (x y : RegIdx) (n : Nat) {r c : Nat} (hsize : s.fb.length = s.cfg.fbH * s.cfg.fbW)
    (hon : s.onScreen r c) :
    ((s.drawPoints x y n).foldl plot (s.setReg vf 0)).pixel r c = (s.pixel r c ^^ s.spriteBit x y n r c) := by
  rw [pixel_foldl_plot _ (nodup_drawPoints s x y n) (s.setReg vf 0) hsize hon.1 hon.2, setReg_pixel]
  congr 1
  rw [Bool.eq_iff_iff, decide_eq_true_eq, mem_drawPoints]

/-- A collision, in the words of the points and in those of the sprite's bits (R192). -/
theorem exists_collision_iff (s : State) (x y : RegIdx) (n : Nat) :
    (∃ p ∈ s.drawPoints x y n, p.1 < s.cfg.fbH ∧ p.2 < s.cfg.fbW ∧ s.pixel p.1 p.2 = true) ↔
      ∃ r c, s.onScreen r c ∧ s.spriteBit x y n r c = true ∧ s.pixel r c = true := by
  constructor
  · rintro ⟨⟨r, c⟩, hp, hr, hc, hpix⟩
    exact ⟨r, c, ⟨hr, hc⟩, (mem_drawPoints ..).mp hp, hpix⟩
  · rintro ⟨r, c, ⟨hr, hc⟩, hbit, hpix⟩
    exact ⟨(r, c), (mem_drawPoints ..).mpr hbit, hr, hc, hpix⟩

/-- Settles O53: a completed draw plots distinct points, each toggling its own pixel, and VF is the collision among them. -/
theorem drawXorsSpriteBits : Obligations.DrawXorsSpriteBits := by
  unfold Obligations.DrawXorsSpriteBits
  intro x y n s hsize hmem hedge
  have hplotted := plotted_foldl (s.drawPoints x y n.val) (s.setReg vf 0)
  obtain ⟨hset, hclear⟩ := vf_foldl_plot _ (nodup_drawPoints s x y n.val) (s.setReg vf 0) hsize
  refine ⟨_, exec_drw_plot hmem (noEdgeFault_drawPoints hedge), fun r c hon => pixel_drw s x y n.val hsize hon,
    fun hcol => hset ((exists_collision_iff ..).mpr hcol), fun hcol => ?_, hplotted.size, frame_draw hplotted⟩
  rw [hclear fun h => hcol ((exists_collision_iff ..).mp h), reg_setReg_self]

/-! ### The first failing check of a draw (R237) -/

/-- The sprite's bit by its row and its column, counted from the start position. -/
theorem spriteBit_at {s : State} {x y : RegIdx} {n row col : Nat} :
    s.spriteBit x y n (s.startRow y + row) (s.startCol x + col) = true ↔
      row < n ∧ col < 8 ∧ (s.byteAt (s.effAddr row)).getLsbD (7 - col) = true := by
  simp only [State.spriteBit, Bool.and_eq_true, decide_eq_true_eq]
  simp only [State.startRow, State.startCol, State.effAddr]
  rw [Nat.add_sub_cancel_left, Nat.add_sub_cancel_left]
  constructor
  · rintro ⟨h, hb⟩
    exact ⟨by omega, by omega, hb⟩
  · rintro ⟨hrow, hcol, hb⟩
    exact ⟨by omega, hb⟩

/-- The bits of a sprite's first rows are its bits above the next row. -/
theorem spriteBit_firstRows {s : State} {x y : RegIdx} {m n r c : Nat} (hmn : m ≤ n) :
    s.spriteBit x y m r c = true ↔ s.spriteBit x y n r c = true ∧ r < s.startRow y + m := by
  simp only [State.spriteBit, State.startRow, Bool.and_eq_true, decide_eq_true_eq]
  constructor
  · rintro ⟨⟨h1, h2, h3⟩, hbit⟩
    exact ⟨⟨⟨h1, by omega, h3⟩, hbit⟩, h2⟩
  · rintro ⟨⟨⟨h1, -, h3⟩, hbit⟩, h2⟩
    exact ⟨⟨h1, h2, h3⟩, hbit⟩

/-- No bit of the first rows faults when the draw clips or its bits above the next row are on the screen. -/
theorem noEdgeFault_firstRows {s : State} {x y : RegIdx} {m n : Nat} (hmn : m ≤ n)
    (h : s.cfg.spriteEdge = .clip ∨ ∀ r c, r < s.startRow y + m → s.spriteBit x y n r c = true → s.onScreen r c) :
    NoEdgeFault (s.setReg vf 0) (s.drawPoints x y m) :=
  noEdgeFault_drawPoints <| h.imp_right fun hon r c hbit =>
    have ⟨hn, hr⟩ := (spriteBit_firstRows hmn).mp hbit
    hon r c hr hn

theorem exec_drw_oob {s : State} {x y : RegIdx} {n : Fin 16} {row : Nat} (hrow : row < n.val)
    (hmem : ∀ k, k < row → s.effAddr k < s.cfg.memSize) (hoob : s.cfg.memSize ≤ s.effAddr row)
    (hedge : NoEdgeFault (s.setReg vf 0) (s.drawPoints x y row)) :
    exec (.drw x y n) s = .next (s.abort ⟨.readOob, s.effAddr row⟩) := by
  obtain ⟨rest, hsplit⟩ := split_range n.val row hrow
  apply exec_drw_error
  rw [hsplit]
  exact drawRows_oob _ _ _ _ _ _ (fun k hk => hmem k (List.mem_range.mp hk)) hoob hedge

/-- The columns of a byte, in order up to the first that faults: none of the earlier ones does (R193, R237). -/
theorem drawByte_first_edge {u : State} {r xs col : Nat} {b : Byte} (hcol : col < 8) (hedge : u.cfg.spriteEdge = .fault)
    (hbit : b.getLsbD (7 - col) = true) (hoff : ¬ u.onScreen r (xs + col))
    (hearlier : ∀ k, k < col → b.getLsbD (7 - k) = true → u.onScreen r (xs + k)) :
    drawByte r xs b spriteCols u = .error ⟨.spriteEdge, r * 256 + (xs + col)⟩ := by
  obtain ⟨rest, hsplit⟩ := split_range 8 col hcol
  have hcols : spriteCols = List.range col ++ col :: rest := hsplit
  rw [hcols]
  refine drawByte_edge r xs b _ rest col u (.inr ?_) hedge hbit hoff
  simp only [bytePoints, List.mem_map, List.mem_filter, List.mem_range]
  rintro p ⟨k, ⟨hk, hb⟩, rfl⟩
  exact hearlier k hk hb

theorem exec_drw_edge {s : State} {x y : RegIdx} {n : Fin 16} {row col : Nat} (hrow : row < n.val)
    (hmem : ∀ k, k ≤ row → s.effAddr k < s.cfg.memSize) (hedge : s.cfg.spriteEdge = .fault)
    (hbit : s.spriteBit x y n.val (s.startRow y + row) (s.startCol x + col) = true)
    (hoff : ¬ s.onScreen (s.startRow y + row) (s.startCol x + col))
    (hearlier : ∀ r c, s.spriteBit x y n.val r c = true →
      (r < s.startRow y + row ∨ (r = s.startRow y + row ∧ c < s.startCol x + col)) → s.onScreen r c) :
    exec (.drw x y n) s = .next (s.abort ⟨.spriteEdge, (s.startRow y + row) * 256 + (s.startCol x + col)⟩) := by
  obtain ⟨rest, hsplit⟩ := split_range n.val row hrow
  obtain ⟨-, hcol, hb⟩ := spriteBit_at.mp hbit
  apply exec_drw_error
  rw [hsplit]
  refine drawRows_edge _ _ _ _ _ _ _ (fun k hk => hmem k (List.mem_range.mp hk).le) (hmem row le_rfl)
    (noEdgeFault_firstRows hrow.le (.inr fun r c hr hb => hearlier r c hb (.inl hr))) fun u hu => ?_
  have hon : ∀ r c, u.onScreen r c ↔ s.onScreen r c := fun r c => by rw [State.onScreen, hu]; rfl
  refine drawByte_first_edge hcol (by rw [hu]; exact hedge) hb (by rwa [hon]) fun k hk hk' => ?_
  exact (hon _ _).mpr (hearlier _ _ (spriteBit_at.mpr ⟨hrow, by omega, hk'⟩) (.inr ⟨rfl, by omega⟩))

/-- Settles O54: the rows before the failing one are plotted, and so are the columns before the failing one in its row. -/
theorem drawReportsFirstFailingCheck : Obligations.DrawReportsFirstFailingCheck := by
  unfold Obligations.DrawReportsFirstFailingCheck
  intro x y n s row col hrow
  refine ⟨fun hmem hoob hedge => ?_, fun r c hr hc hedge hmem hbit hoff hearlier => ?_⟩
  · exact ⟨_, exec_drw_oob hrow hmem hoob (noEdgeFault_firstRows hrow.le hedge), abort_faults s _⟩
  · subst hr hc
    exact ⟨_, exec_drw_edge hrow hmem hedge hbit hoff hearlier, abort_faults s _⟩

/-! ### A draw that completed, and the same draw again (R195) -/

theorem NoEdgeFault.append {s : State} {ps qs : List (Nat × Nat)} (hp : NoEdgeFault s ps) (hq : NoEdgeFault s qs) :
    NoEdgeFault s (ps ++ qs) := by
  rcases hp with hclip | hp
  · exact .inl hclip
  · exact hq.imp_right fun hq p hmem => (List.mem_append.mp hmem).elim (hp p) (hq p)

theorem drawBit_ok {s t : State} {r c : Nat} (h : drawBit s r c = .ok t) : NoEdgeFault s [(r, c)] := by
  by_cases hon : r < s.cfg.fbH ∧ c < s.cfg.fbW
  · exact .inr fun p hp => by rw [List.mem_singleton.mp hp]; exact hon
  · left
    rw [drawBit, if_pos (by omega)] at h
    cases he : s.cfg.spriteEdge with
    | clip => rfl
    | fault => rw [he] at h; cases h

theorem drawByte_ok {r xs : Nat} {b : Byte} {cols : List Nat} {s t : State} (h : drawByte r xs b cols s = .ok t) :
    NoEdgeFault s (bytePoints r xs b cols) := by
  induction cols generalizing s with
  | nil => exact .inr fun p hp => nomatch hp
  | cons col cols ih =>
    unfold drawByte at h
    split at h
    case isTrue hb =>
      rcases drawBit_cases s r (xs + col) with ⟨-, -, hd⟩ | hd
      · simp only [hd] at h
        cases h
      · simp only [hd] at h
        have hpts : bytePoints r xs b (col :: cols) = [(r, xs + col)] ++ bytePoints r xs b cols := by simp [bytePoints, hb]
        rw [hpts]
        exact (drawBit_ok hd).append ((ih h).mono (plotted_plot s _).cfg.symm fun _ hp => hp)
    case isFalse hb =>
      have hpts : bytePoints r xs b (col :: cols) = bytePoints r xs b cols := by simp [bytePoints, hb]
      rw [hpts]
      exact ih h

/-- Every row a completed draw read was in memory, and none of its bits faulted (R191, R193). -/
theorem drawRows_ok {ys xs : Nat} {rows : List Nat} {s t : State} (h : drawRows ys xs rows s = .ok t) :
    (∀ row ∈ rows, s.effAddr row < s.cfg.memSize) ∧ NoEdgeFault s (rowPoints s ys xs rows) := by
  induction rows generalizing s with
  | nil => exact ⟨fun _ hrow => absurd hrow List.not_mem_nil, .inr fun _ hp => absurd hp List.not_mem_nil⟩
  | cons row rows ih =>
    have hpts : rowPoints s ys xs (row :: rows) =
        bytePoints (ys + row) xs (s.byteAt (s.effAddr row)) spriteCols ++ rowPoints s ys xs rows := by
      simp [rowPoints]
    unfold drawRows at h
    by_cases hoob : s.cfg.memSize ≤ s.effAddr row
    · simp only [State.memRead, if_pos hoob] at h
      cases h
    · simp only [State.memRead, if_neg hoob] at h
      cases hd : drawByte (ys + row) xs (s.byteAt (s.effAddr row)) spriteCols s with
      | error e => rw [hd] at h; cases h
      | ok u =>
        rw [hd] at h
        have hp := drawByte_plotted _ _ _ _ _ _ hd
        obtain ⟨hmem, hedge⟩ := ih h
        simp only [State.effAddr, hp.index, hp.cfg] at hmem
        rw [rowPoints_congr ys xs rows hp] at hedge
        rw [hpts]
        refine ⟨fun k hk => ?_, (drawByte_ok hd).append (hedge.mono hp.cfg.symm fun _ hp => hp)⟩
        rcases List.mem_cons.mp hk with rfl | hk
        · exact Nat.lt_of_not_le hoob
        · exact hmem k hk

theorem Plotted.status {s t : State} (h : Plotted s t) : t.status = s.status := by rw [h.eq]

theorem exec_drw_run {s t : State} {x y : RegIdx} {n : Fin 16} (h : exec (.drw x y n) s = .next t)
    (ht : t.status = .running) :
    (∀ row, row < n.val → s.effAddr row < s.cfg.memSize) ∧ NoEdgeFault (s.setReg vf 0) (s.drawPoints x y n.val) := by
  cases Host.Outcome.next.inj h
  obtain ⟨hmem, hedge⟩ := drawRows_ok (settle_run ht)
  exact ⟨fun row hrow => hmem row (List.mem_range.mpr hrow), hedge⟩

/-- A state that differs from `s` as a draw leaves it, but for `pc`, plots the same points where the coordinates are not VF. -/
theorem drawPoints_congr {s t : State} {x y : RegIdx} (hx : x ≠ vf) (hy : y ≠ vf) (h : Plotted (s.setReg vf 0) t) (a : Word)
    (n : Nat) : (t.setPc a).drawPoints x y n = s.drawPoints x y n := by
  have hrow : (t.setPc a).startRow y = s.startRow y := by
    rw [State.startRow, setPc_reg, h.regs y hy, reg_setReg_ne _ _ hy, setPc_cfg, h.cfg]
    rfl
  have hcol : (t.setPc a).startCol x = s.startCol x := by
    rw [State.startCol, setPc_reg, h.regs x hx, reg_setReg_ne _ _ hx, setPc_cfg, h.cfg]
    rfl
  simp only [State.drawPoints, hrow, hcol]
  simp only [rowPoints, State.effAddr, setReg_index, setReg_byteAt, setPc_index, setPc_byteAt, h.index, h.byteAt]

/-- Settles O55: the second draw plots the points of the first, and a pixel toggled twice is as before. -/
theorem doubleDrawRestores : Obligations.DoubleDrawRestores := by
  unfold Obligations.DoubleDrawRestores
  intro x y n s t u hx hy hsize hs h ht hu
  obtain ⟨hmem, hedge⟩ := exec_drw_run h ht
  have ht' : t = (s.drawPoints x y n.val).foldl plot (s.setReg vf 0) :=
    Host.Outcome.next.inj (h.symm.trans (exec_drw_plot hmem hedge))
  have hp : Plotted (s.setReg vf 0) t := ht' ▸ plotted_foldl (s.drawPoints x y n.val) (s.setReg vf 0)
  have hcfg : t.cfg = s.cfg := hp.cfg
  have hpts := drawPoints_congr hx hy hp (t.pc + 2) n.val
  have hbit : ∀ r c, (t.setPc (t.pc + 2)).spriteBit x y n.val r c = s.spriteBit x y n.val r c := fun r c => by
    rw [Bool.eq_iff_iff, ← mem_drawPoints, hpts, mem_drawPoints]
  have hu' : u = ((t.setPc (t.pc + 2)).drawPoints x y n.val).foldl plot ((t.setPc (t.pc + 2)).setReg vf 0) := by
    refine Host.Outcome.next.inj (hu.symm.trans (exec_drw_plot (s := t.setPc (t.pc + 2)) (fun row hrow => ?_) ?_))
    · simpa only [State.effAddr, setPc_index, setPc_cfg, hp.index, setReg_index, hcfg] using hmem row hrow
    · rw [hpts]
      exact hedge.mono hcfg fun _ hq => hq
  rw [hu']
  refine ⟨(plotted_foldl _ _).status.trans ht, fun r c hon => ?_⟩
  have hsize' : (t.setPc (t.pc + 2)).fb.length = t.cfg.fbH * t.cfg.fbW := hcfg ▸ hp.size.trans hsize
  have hon' : (t.setPc (t.pc + 2)).onScreen r c := by simpa [State.onScreen, hcfg] using hon
  rw [pixel_drw (t.setPc (t.pc + 2)) x y n.val hsize' hon', hbit, setPc_pixel, ht', pixel_drw s x y n.val hsize hon, Bool.xor_assoc, Bool.xor_self, Bool.xor_false]

/-! ### Reset, the loaders and the ports (R39, R51, R55, R56, R260 to R267) -/

theorem resetRequest_pixel (s : State) (r c : Nat) : s.resetRequest.pixel r c = false := clearFb_pixel s r c

theorem resetRequest_stack (s : State) (j : Fin 16) : s.resetRequest.stack.get j = 0 := Vector.getElem_replicate j.isLt

/-- The font table reads as FONT_DATA (R67, R262). -/
theorem resetByte_font {c : Config} {k : Nat} (h : k < Config.fontBytes) :
    resetByte c (c.fontBase + k) = c.fontData.getD k 0 := by
  rw [resetByte, if_pos ⟨by omega, by omega⟩, Nat.add_sub_cancel_left]

/-- Settles O20: RESET answers `resetRequest`, whose fields are R260's table; a glyph's byte is one of the font table's 80. -/
theorem resetLeavesDecidedValues : Obligations.ResetLeavesDecidedValues := by
  unfold Obligations.ResetLeavesDecidedValues
  refine fun s _ => ⟨s.resetRequest, serve_reset s, rfl, rfl, resetRequest_stack s, List.length_replicate, resetRequest_pixel s,
    rfl, rfl, rfl, rfl, rfl, rfl, rfl, rfl, rfl, fun d k hd hk => ?_⟩
  rw [resetRequest_byteAt, Nat.add_assoc]
  exact resetByte_font (show 5 * d + k < 80 by omega)

theorem frame_setByte (s : State) (a : Nat) (b : Byte) (rs : List RegIdx) : Frame rs [.memory] s (s.setByte a b) :=
  frame_setBytes s a [b] rs

/-- Settles O21: under its four conditions the port is one byte write, else it is nothing. -/
theorem loaderPortWritesBeforeStart : Obligations.LoaderPortWritesBeforeStart := by
  unfold Obligations.LoaderPortWritesBeforeStart
  refine fun s addr data we => ⟨fun hserved => ?_, fun hrefused => if_neg hrefused⟩
  have hwrite : s.loaderWrite addr data we = s.setByte addr.toNat data := if_pos hserved
  rw [hwrite]
  refine ⟨?_, fun a ha => ?_, frame_setByte _ _ _ _⟩
  · rw [byteAt_setByte, if_pos rfl]
  · rw [byteAt_setByte, if_neg ha]

/-- Settles O22: the checks in Load's order, and the copy is `setBytes` at ENTRY. -/
theorem loadCopiesOrRefuses : Obligations.LoadCopiesOrRefuses := by
  unfold Obligations.LoadCopiesOrRefuses
  refine fun s p => ⟨fun h => load_refused h p, fun ⟨hst, hrun⟩ hbig => ?_, fun ⟨hst, hrun⟩ hfits => ?_⟩
  · rw [State.load, if_neg (by simp [hst, hrun]), if_pos hbig]
  · refine ⟨s.setBytes s.cfg.entry p, ?_, fun k hk => byteAt_setBytes_inside s hk, fun a ha => byteAt_setBytes_outside s ha,
      frame_setBytes _ _ _ _⟩
    rw [State.load, if_neg (by simp [hst, hrun]), if_neg (by omega)]

/-- Settles O23: a position in range names a pixel of the list, and its word is all bits set or all clear. -/
theorem framebufferPortWords : Obligations.FramebufferPortWords := by
  unfold Obligations.FramebufferPortWords
  refine fun s r c hsize => ⟨fun hin => ?_, fun hout => if_neg hout⟩
  have hlt : r * s.cfg.fbW + c < s.fb.length := hsize ▸ pixelNumber_lt hin.1 hin.2
  refine ⟨s.fb[r * s.cfg.fbW + c], List.getElem?_eq_getElem hlt, ?_⟩
  rw [State.fbPort, if_pos hin, pixelWord, State.pixel, List.getD_eq_getElem _ _ hlt]

/-- Settles O24: the codes are read off the two STATUS values and the eight causes, and SP fits in five bits. -/
theorem outputsGiveRecordCodes : Obligations.OutputsGiveRecordCodes := by
  unfold Obligations.OutputsGiveRecordCodes
  intro s
  refine ⟨?_, ?_, fun f hf => ?_, fun hf => ?_, rfl, rfl, rfl, rfl, rfl, rfl, rfl, rfl, ?_⟩
  · cases h : s.status <;> simp [State.outputs, State.statusBit, h]
  · cases h : s.status <;> simp [State.outputs, State.statusBit, h]
  · rw [State.outputs, State.faultCode, hf]
    cases f <;> rfl
  · rw [State.outputs, State.faultCode, hf]
  · rw [State.spField, BitVec.toNat_ofNat, Nat.mod_eq_of_lt (by omega)]

/-! ### Register moves and the random byte (R143 to R146, R152) -/

theorem exec_ldReg (x y : RegIdx) (s : State) : exec (.ldReg x y) s = .next (s.setReg x (s.reg y)) := rfl

theorem exec_orReg (x y : RegIdx) (s : State) : exec (.orReg x y) s = .next (s.setReg x (s.reg x ||| s.reg y)) := rfl

theorem exec_andReg (x y : RegIdx) (s : State) : exec (.andReg x y) s = .next (s.setReg x (s.reg x &&& s.reg y)) := rfl

theorem exec_xorReg (x y : RegIdx) (s : State) : exec (.xorReg x y) s = .next (s.setReg x (s.reg x ^^^ s.reg y)) := rfl

theorem exec_rnd (x : RegIdx) (kk : Byte) (s : State) : exec (.rnd x kk) s = .next (s.setReg x (s.rnd &&& kk)) := rfl

theorem exec_ldVxDt (x : RegIdx) (s : State) : exec (.ldVxDt x) s = .next (s.setReg x s.dt) := rfl

/-- A handler that is one register write, as the obligations state it. -/
theorem exec_setReg {i : Instr} {s : State} {x : RegIdx} {b : Byte} (h : exec i s = .next (s.setReg x b)) :
    ∃ t, exec i s = .next t ∧ t.reg x = b ∧ Frame [x] [] s t :=
  ⟨_, h, reg_setReg_self s x b, frame_setReg s b (List.mem_singleton_self x) []⟩

/-- Settles O30: each handler is one register write, and none writes VF beside its destination. -/
theorem moveAndBitwise : Obligations.MoveAndBitwise := by
  unfold Obligations.MoveAndBitwise
  intro x y s
  exact ⟨decodeWord_encode (i := .ldReg x y) rfl, decodeWord_encode (i := .orReg x y) rfl,
    decodeWord_encode (i := .andReg x y) rfl, decodeWord_encode (i := .xorReg x y) rfl,
    exec_setReg (exec_ldReg x y s), exec_setReg (exec_orReg x y s), exec_setReg (exec_andReg x y s),
    exec_setReg (exec_xorReg x y s)⟩

/-- Settles O34: the presented byte is the queued one, or the free value where none is queued. -/
theorem randomByteIsMasked : Obligations.RandomByteIsMasked := by
  unfold Obligations.RandomByteIsMasked
  intro x kk s
  refine ⟨decodeWord_encode (i := .rnd x kk) rfl, fun i l hq => ?_, fun hq => ?_⟩
  · have hrnd : s.rnd = i.rnd := by rw [State.rnd, hq]
    exact exec_setReg (hrnd ▸ exec_rnd x kk s)
  · have hrnd : s.rnd = Config.freeRnd s.tick := by rw [State.rnd, hq]
    exact exec_setReg (hrnd ▸ exec_rnd x kk s)

/-- Settles O44: the handler reads DT as the fetch left it, and the countdown comes after it (R105). -/
theorem timerReads : Obligations.TimerReads := by
  unfold Obligations.TimerReads
  intro x s
  have hdec : decodeWord (wordXKK 0xF x 0x07) = .ldVxDt x := decodeWord_encode (i := .ldVxDt x) rfl
  refine ⟨hdec, exec_setReg (exec_ldVxDt x s), fun hs hpc hw => ?_⟩
  have hi : decodeWord s.wordAtPc = .ldVxDt x := hw ▸ hdec
  refine ⟨_, step_of_completed (u := (s.afterFetch s.wordAtPc).setReg x s.dt) hs hpc (by rw [hi, exec_ldVxDt]; rfl) hs, ?_,
    countDown_toNat s.dt⟩
  rw [nextInput_reg, complete_reg, reg_setReg_self]

/-! ### Control transfer (R121, R123, R126 to R129) -/

theorem exec_jpV0 (nnn : Addr12) (s : State) : exec (.jpV0 nnn) s = .next (s.setPc (zext8 (s.reg 0) + zext12 nnn)) := rfl

theorem exec_seReg (x y : RegIdx) (n : Nibble) (s : State) :
    exec (.seReg x y n) s = .next (s.skipIf (s.reg x == s.reg y)) := rfl

theorem exec_sneReg (x y : RegIdx) (n : Nibble) (s : State) :
    exec (.sneReg x y n) s = .next (s.skipIf (s.reg x != s.reg y)) := rfl

/-- Settles O36: a byte and a 12-bit address add up without wrapping at 16 bits. -/
theorem jumpAddsV0 : Obligations.JumpAddsV0 := by
  unfold Obligations.JumpAddsV0
  intro nnn s
  refine ⟨decodeWord_encode (i := .jpV0 nnn) rfl, _, exec_jpV0 nnn s, ?_, frame_setPc _ _ _⟩
  have hv := (s.reg 0).isLt
  have hn := nnn.isLt
  rw [setPc_pc, zext8_add_zext12, BitVec.toNat_ofNat, Nat.mod_eq_of_lt (by omega)]

/-- Settles O41: both handlers are a conditional skip, on the equality test and on its negation. -/
theorem skipsOnRegisters : Obligations.SkipsOnRegisters := by
  unfold Obligations.SkipsOnRegisters
  intro x y n s
  exact ⟨decodeWord_encode (i := .seReg x y n) rfl, decodeWord_encode (i := .sneReg x y n) rfl,
    ⟨_, exec_seReg x y n s, skipIf_beq_pc _ _ _, frame_skipIf _ _ _⟩,
    ⟨_, exec_sneReg x y n s, skipIf_bne_pc _ _ _, frame_skipIf _ _ _⟩⟩

/-- Settles O37: the push writes slot SP alone, or is refused with all 16 levels in use. -/
theorem callPushesOrOverflows : Obligations.CallPushesOrOverflows := by
  unfold Obligations.CallPushesOrOverflows
  intro nnn s
  refine ⟨decodeWord_encode (i := .call nnn) rfl, fun hlt => ?_, fun hfull => ?_⟩
  · have hpush := push_ok s s.pc hlt
    refine ⟨_, exec_call_ok nnn hpush, rfl, zext12_toNat nnn, fun j => ?_, frame_push_setPc hpush _ _⟩
    simp only [setPc_stack, Vector.get_eq_getElem, Vector.getElem_set, eq_comm]
  · exact ⟨_, exec_call_error nnn (push_full s s.pc hfull), abort_faults s _⟩

/-- Settles O38: the pop reads the slot below SP and leaves the slots alone, or is refused with none in use. -/
theorem returnPopsOrUnderflows : Obligations.ReturnPopsOrUnderflows := by
  unfold Obligations.ReturnPopsOrUnderflows
  refine fun s => ⟨fun hpos => ?_, fun hzero => ?_⟩
  · have hpop := pop_ok s hpos
    refine ⟨_, exec_ret_ok hpop, ?_, fun j hj => ?_, rfl, frame_pop_setPc hpop _⟩
    · exact Nat.sub_add_cancel hpos
    · simp only [setPc_sp] at hj
      simp only [setPc_pc, Vector.get_eq_getElem, hj]
  · exact ⟨_, exec_ret_error (pop_empty s hzero), abort_faults s _⟩

/-- Settles O39: the pop reads the slot that the push wrote. -/
theorem callThenReturnComesBack : Obligations.CallThenReturnComesBack := by
  unfold Obligations.CallThenReturnComesBack
  intro nnn s hlt
  refine ⟨_, _, exec_call_ok nnn (push_ok s s.pc hlt), exec_ret_ok (pop_ok _ (Nat.succ_pos _)), ?_, rfl, rfl⟩
  exact Vector.getElem_set_self _

/-! ### Keys (R213 to R215) -/

/-- Settles O42: the presented keys are those the handler reads, and the key number is checked first. -/
theorem skipsOnKeys : Obligations.SkipsOnKeys := by
  unfold Obligations.SkipsOnKeys
  intro x s keys hkeys
  rw [presentsKeys_iff.mp hkeys]
  refine ⟨decodeWord_encode (i := .skp x) rfl, decodeWord_encode (i := .sknp x) rfl, fun hlt => ⟨?_, ?_⟩, fun hge => ⟨?_, ?_⟩⟩
  · exact ⟨_, exec_skp_ok (keyNumber_ok hlt), skipIf_pc _ _, frame_skipIf _ _ _⟩
  · refine ⟨_, exec_sknp_ok (keyNumber_ok hlt), ?_, frame_skipIf _ _ _⟩
    rw [skipIf_pc]
    cases s.keys.getLsbD (s.reg x).toNat <;> rfl
  · exact ⟨_, exec_skp_error (keyNumber_error hge), abort_faults s _⟩
  · exact ⟨_, exec_sknp_error (keyNumber_error hge), abort_faults s _⟩

/-- Settles O43: the scan from key 0 finds no key, or the lowest pressed one. -/
theorem waitForKey : Obligations.WaitForKey := by
  unfold Obligations.WaitForKey
  intro x s keys hkeys
  rw [presentsKeys_iff.mp hkeys]
  refine ⟨decodeWord_encode (i := .ldKey x) rfl, fun hnone => ?_, fun k hk hpressed hlow => ?_⟩
  · exact ⟨_, exec_ldKey_none x (firstPressed_none hnone), rfl, frame_setPc _ _ _⟩
  · obtain ⟨t, ht, hreg, hframe⟩ := exec_setReg (exec_ldKey_some x (firstPressed_some hk hpressed hlow))
    refine ⟨t, ht, ?_, hframe⟩
    rw [hreg, BitVec.toNat_ofNat, Nat.mod_eq_of_lt (by omega)]

/-! ### The index register and the memory transfers (R171 to R175) -/

theorem exec_addI (x : RegIdx) (s : State) : exec (.addI x) s = .next (s.setIndex (s.index + zext8 (s.reg x))) := rfl

theorem exec_ldFont (x : RegIdx) (s : State) : exec (.ldFont x) s = .next (s.setIndex (fontAddr s.cfg (s.reg x))) := rfl

/-- Zero extension from 8 to 16 bits keeps the number (R9). -/
@[simp] theorem zext8_toNat (b : Byte) : (zext8 b).toNat = b.toNat := BitVec.toNat_setWidth_of_le (by decide)

/-- Settles O47: both sums are taken modulo 2^16, with V[x] whole. -/
theorem indexSumAndGlyph : Obligations.IndexSumAndGlyph := by
  unfold Obligations.IndexSumAndGlyph
  intro x s
  refine ⟨decodeWord_encode (i := .addI x) rfl, decodeWord_encode (i := .ldFont x) rfl,
    ⟨_, exec_addI x s, ?_, frame_setIndex _ _ _⟩, ⟨_, exec_ldFont x s, ?_, frame_setIndex _ _ _⟩⟩
  · rw [setIndex_index, BitVec.toNat_add, zext8_toNat]
  · exact BitVec.toNat_ofNat ..

/-- Settles O50: the reads are in range, or the first address past memory is reported. -/
theorem loadRegistersFromMemory : Obligations.LoadRegistersFromMemory := by
  unfold Obligations.LoadRegistersFromMemory
  intro x s
  refine ⟨decodeWord_encode (i := .loadRegs x) rfl, fun hin => ?_, fun hoob => ?_⟩
  · have hread := readBytes_ok s (s.effAddr 0) (x.val + 1) hin
    refine ⟨_, exec_loadRegs_ok hread, fun k hk => ?_, frame_setRegs s (readBytes_length hread) []⟩
    have hkx : k.val < x.val + 1 := Nat.lt_succ_of_le hk
    rw [reg_setRegs]
    simp [List.getD_eq_getElem?_getD, hkx, State.effAddr]
  · exact ⟨_, exec_loadRegs_error (readBytes_oob s _ _ (Nat.lt_succ_of_le hoob) x.val.succ_pos), abort_faults s _⟩

theorem byteAt_bcd (s : State) (x : RegIdx) {k : Nat} (hk : k < 3) :
    (s.setBytes (s.effAddr 0) (bcdDigits (s.reg x))).byteAt (s.effAddr k) = (bcdDigits (s.reg x)).getD k 0 :=
  byteAt_setBytes_inside s hk

theorem bcdDigits_toNat (v : Byte) : ((bcdDigits v).getD 0 0).toNat = v.toNat / 100 ∧
    ((bcdDigits v).getD 1 0).toNat = v.toNat / 10 % 10 ∧ ((bcdDigits v).getD 2 0).toNat = v.toNat % 10 := by
  have hv := v.isLt
  simp only [bcdDigits, List.getD_cons_zero, List.getD_cons_succ, BitVec.toNat_ofNat]
  omega

/-- A store that is not in the reserved region's way: it is in range, or the first address past memory is reported (R237). -/
theorem settle_writeBytes_oob {s : State} {bs : List Byte} (hb : bs ≠ []) (hoob : s.cfg.memSize < s.effAddr 0 + bs.length)
    (hr : s.cfg.reservedWrite = .allow ∨ 0x1FF < s.effAddr 0 ∨ s.cfg.memSize ≤ s.effAddr 0) :
    s.writeBytes (s.effAddr 0) bs = .error ⟨.writeOob, max (s.effAddr 0) s.cfg.memSize⟩ := by
  rcases hr with hr | hr | hr
  · exact writeBytes_oob s _ bs hoob hb (.inl hr)
  · exact writeBytes_oob s _ bs hoob hb (.inr hr)
  · obtain ⟨b, bs, rfl⟩ := List.exists_cons_of_ne_nil hb
    simp [State.writeBytes, State.memWrite, hr]

/-- Settles O48: the store of the three digits, its bound and its reserved region. -/
theorem bcdStoresDigits : Obligations.BcdStoresDigits := by
  unfold Obligations.BcdStoresDigits
  intro x s
  refine ⟨decodeWord_encode (i := .bcd x) rfl, fun hin hr => ?_, fun hoob hr => ?_, fun hprot hres hlt => ?_⟩
  · obtain ⟨h100, h10, h1⟩ := bcdDigits_toNat (s.reg x)
    refine ⟨_, exec_bcd_ok (writeBytes_ok s _ _ hin hr), ?_, ?_, ?_, fun a ha => byteAt_setBytes_outside s ha,
      frame_setBytes _ _ _ _⟩
    · rw [byteAt_bcd s x (by decide), h100]
    · rw [byteAt_bcd s x (by decide), h10]
    · rw [byteAt_bcd s x (by decide), h1]
  · exact ⟨_, exec_bcd_error (settle_writeBytes_oob (List.cons_ne_nil _ _) (Nat.lt_succ_of_le hoob) hr), abort_faults s _⟩
  · exact ⟨_, exec_bcd_error (writeBytes_reserved s _ _ _ hlt hprot hres), abort_faults s _⟩

/-- Settles O49: the store of V[0..x], its bound and its reserved region. -/
theorem storeRegistersToMemory : Obligations.StoreRegistersToMemory := by
  unfold Obligations.StoreRegistersToMemory
  intro x s
  have hlen := regsUpTo_length s x
  have hne : s.regsUpTo x ≠ [] := List.ne_nil_of_length_pos (by omega)
  refine ⟨decodeWord_encode (i := .storeRegs x) rfl, fun hin hr => ?_, fun hoob hr => ?_, fun hprot hres hlt => ?_⟩
  · refine ⟨_, exec_storeRegs_ok (writeBytes_ok s _ _ (by rw [hlen]; exact hin) hr), fun k hk => byteAt_storeRegs s hk,
      fun a ha => byteAt_storeRegs_outside s ha, frame_setBytes _ _ _ _⟩
  · refine ⟨_, exec_storeRegs_error (settle_writeBytes_oob hne ?_ hr), abort_faults s _⟩
    rw [hlen]
    exact Nat.lt_succ_of_le hoob
  · obtain ⟨b, bs, hbs⟩ := List.exists_cons_of_ne_nil hne
    exact ⟨_, exec_storeRegs_error (hbs ▸ writeBytes_reserved s _ b bs hlt hprot hres), abort_faults s _⟩

/-! ### Stored bytes are fetched (R74, R272) -/

@[simp] theorem setBytes_cfg (s : State) (a : Nat) (bs : List Byte) : (s.setBytes a bs).cfg = s.cfg := by rw [setBytes_eq]
@[simp] theorem setBytes_pc (s : State) (a : Nat) (bs : List Byte) : (s.setBytes a bs).pc = s.pc := by rw [setBytes_eq]
@[simp] theorem setBytes_diagWord (s : State) (a : Nat) (bs : List Byte) : (s.setBytes a bs).diagWord = s.diagWord := by
  rw [setBytes_eq]

/-- Every fetch that takes in a byte Fx55 stored reads it as stored. -/
theorem fetch_after_storeRegs {s t : State} {x : RegIdx} (ht : t.status = .running) (h : exec (.storeRegs x) s = .next t)
    (a : Word) :
    (∀ k j : RegIdx, j.val = k.val + 1 → j ≤ x → a.toNat = s.effAddr k.val →
      (t.setPc a).fetch = .ok (s.reg k ++ s.reg j)) ∧
    (a.toNat + 1 = s.effAddr 0 → (t.setPc a).fetch = .ok (s.byteAt a.toNat ++ s.reg 0)) ∧
    (a.toNat = s.effAddr x.val → a.toNat + 1 < s.cfg.memSize →
      (t.setPc a).fetch = .ok (s.reg x ++ s.byteAt (a.toNat + 1))) := by
  obtain ⟨hin, rfl⟩ := exec_storeRegs_run h ht
  have hstored : ∀ {b : Nat} {k : RegIdx}, k ≤ x → b = s.effAddr k.val →
      (s.setBytes (s.effAddr 0) (s.regsUpTo x)).byteAt b = s.reg k := fun hk hb => hb ▸ byteAt_storeRegs s hk
  simp only [State.effAddr] at hin
  refine ⟨fun k j hjk hjx ha => ?_, fun ha => ?_, fun ha hlt => ?_⟩
  · have hle : j.val ≤ x.val := hjx
    have ha1 : a.toNat + 1 = s.effAddr j.val := by simp only [State.effAddr] at ha ⊢; omega
    have hlt : a.toNat + 1 < s.cfg.memSize := by simp only [State.effAddr] at ha1; omega
    exact fetch_setPc (by simpa using hlt) (hstored (show k.val ≤ x.val by omega) ha) (hstored hjx ha1)
  · have hlt : a.toNat + 1 < s.cfg.memSize := by simp only [State.effAddr] at ha; omega
    exact fetch_setPc (by simpa using hlt) (byteAt_storeRegs_outside s (by omega)) (hstored (Fin.zero_le x) ha)
  · exact fetch_setPc (by simpa using hlt) (hstored le_rfl ha) (byteAt_storeRegs_outside s (by omega))

/-- Every fetch that takes in a digit Fx33 stored reads it as stored. -/
theorem fetch_after_bcd {s t : State} {x : RegIdx} (ht : t.status = .running) (h : exec (.bcd x) s = .next t)
    (a : Word) (d₀ d₁ d₂ : Byte) (h₀ : d₀.toNat = (s.reg x).toNat / 100) (h₁ : d₁.toNat = (s.reg x).toNat / 10 % 10)
    (h₂ : d₂.toNat = (s.reg x).toNat % 10) :
    (a.toNat = s.effAddr 0 → (t.setPc a).fetch = .ok (d₀ ++ d₁)) ∧
    (a.toNat = s.effAddr 1 → (t.setPc a).fetch = .ok (d₁ ++ d₂)) ∧
    (a.toNat + 1 = s.effAddr 0 → (t.setPc a).fetch = .ok (s.byteAt a.toNat ++ d₀)) ∧
    (a.toNat = s.effAddr 2 → a.toNat + 1 < s.cfg.memSize → (t.setPc a).fetch = .ok (d₂ ++ s.byteAt (a.toNat + 1))) := by
  obtain ⟨hin, rfl⟩ := exec_bcd_run h ht
  obtain ⟨g₀, g₁, g₂⟩ := bcdDigits_toNat (s.reg x)
  have hb₀ := (byteAt_bcd s x (show 0 < 3 by decide)).trans (BitVec.eq_of_toNat_eq (g₀.trans h₀.symm))
  have hb₁ := (byteAt_bcd s x (show 1 < 3 by decide)).trans (BitVec.eq_of_toNat_eq (g₁.trans h₁.symm))
  have hb₂ := (byteAt_bcd s x (show 2 < 3 by decide)).trans (BitVec.eq_of_toNat_eq (g₂.trans h₂.symm))
  have hout : ∀ {b : Nat}, ¬ (s.effAddr 0 ≤ b ∧ b < s.effAddr 3) →
      (s.setBytes (s.effAddr 0) (bcdDigits (s.reg x))).byteAt b = s.byteAt b := fun hb => byteAt_setBytes_outside s hb
  simp only [State.effAddr] at hin
  refine ⟨fun ha => ?_, fun ha => ?_, fun ha => ?_, fun ha hlt => ?_⟩
  · have ha1 : a.toNat + 1 = s.effAddr 1 := by simp only [State.effAddr] at ha ⊢; omega
    have hlt : a.toNat + 1 < s.cfg.memSize := by simp only [State.effAddr] at ha; omega
    exact fetch_setPc (by simpa using hlt) (ha ▸ hb₀) (ha1 ▸ hb₁)
  · have ha1 : a.toNat + 1 = s.effAddr 2 := by simp only [State.effAddr] at ha ⊢; omega
    have hlt : a.toNat + 1 < s.cfg.memSize := by simp only [State.effAddr] at ha; omega
    exact fetch_setPc (by simpa using hlt) (ha ▸ hb₁) (ha1 ▸ hb₂)
  · have hlt : a.toNat + 1 < s.cfg.memSize := by simp only [State.effAddr] at ha; omega
    exact fetch_setPc (by simpa using hlt) (hout (by omega)) (ha ▸ hb₀)
  · exact fetch_setPc (by simpa using hlt) (ha ▸ hb₂) (hout (by simp only [State.effAddr] at ha ⊢; omega))

/-- Settles O51: a completed store is `setBytes`, whose bytes a fetch reads as any others; the step that stores over its own
word has already fetched it. -/
theorem storedWordIsFetched : Obligations.StoredWordIsFetched := by
  unfold Obligations.StoredWordIsFetched
  intro x s t hs ht
  refine ⟨fetch_after_storeRegs ht, fetch_after_bcd ht, fun h hw => ?_, fun h hw => ?_⟩
  · obtain ⟨u, hu, hrun, rfl⟩ := step_completed h ht
    rw [show decodeWord s.wordAtPc = .storeRegs x from hw ▸ decodeWord_encode (i := .storeRegs x) rfl] at hu
    obtain ⟨-, rfl⟩ := exec_storeRegs_run hu hrun
    exact ⟨setBytes_pc .., setBytes_diagWord .., fun k hk => byteAt_storeRegs (s.afterFetch s.wordAtPc) hk⟩
  · obtain ⟨u, hu, hrun, rfl⟩ := step_completed h ht
    rw [show decodeWord s.wordAtPc = .bcd x from hw ▸ decodeWord_encode (i := .bcd x) rfl] at hu
    obtain ⟨-, rfl⟩ := exec_bcd_run hu hrun
    obtain ⟨h100, h10, h1⟩ := bcdDigits_toNat (s.reg x)
    have hbyte := fun k (hk : k < 3) => congrArg BitVec.toNat (byteAt_bcd (s.afterFetch s.wordAtPc) x hk)
    exact ⟨setBytes_pc .., setBytes_diagWord .., (hbyte 0 (by decide)).trans h100, (hbyte 1 (by decide)).trans h10,
      (hbyte 2 (by decide)).trans h1⟩

end Sys2Proof.Machine
end
